-- ==== Sys2Proof/Word.lean ====
section
/-! DEFINITION. The two value widths of the machine (00_scope.md section 6: a byte is 8 bits, a word is 16 bits).
All values are unsigned and all arithmetic on them wraps (rule R8, rule R96), which is what `BitVec` addition and
subtraction do. -/

namespace Sys2Proof

/-- A byte: 8 bits, bit 0 least significant. -/
abbrev Byte := BitVec 8

/-- A word: 16 bits. Every address is a word. -/
abbrev Word := BitVec 16

end Sys2Proof
end

