-- ==== Sys2Proof/Config.lean ====
section
/-! DEFINITION. What the spec leaves to the implementation (rule R5, Table P): `C_JSR_SUB` and `BUDGET_MAX`.
Both are constants with no body, so nothing proved about the machine can rest on a value of either. -/

namespace Sys2Proof

/-- The two readings of what the computation of `PC - 1` in a JSR costs (92_eei_decisions.md D3). The first is the
spec's default. -/
inductive JsrSubCost where
  | charged   -- C_JSR_SUB = 1, a JSR costs 7
  | free      -- C_JSR_SUB = 0, a JSR costs 6
deriving DecidableEq, Repr, Inhabited

/-- `C_JSR_SUB` as a number of budget units: 1 or 0 (Table P). -/
def JsrSubCost.units : JsrSubCost → Nat
  | .charged => 1
  | .free => 0

/-- Which reading this machine has. No body: log entry 3. -/
opaque Config.jsrSub : JsrSubCost

/-- `C_JSR_SUB` of this machine, a number in 0, 1. -/
def Config.cJsrSub : Nat := Config.jsrSub.units

/-- `BUDGET_MAX`, the largest budget `Execute` accepts (rule R155); `none` is a machine that accepts every natural
budget. No body: log entry 4. -/
opaque Config.budgetMax : Option Nat

end Sys2Proof
end

