-- ==== Sys2Proof/Syntax.lean ====
section
/-! DEFINITION. The instructions: one constructor per row of spec/opcode_table.json (rule R75), with the operand fields
of its format (rules R71, R72). The 252 unknown opcodes are no instruction: the decoder names them `unknownOpcode`. -/

namespace Sys2Proof

/-- The four instructions of Table OPC. -/
inductive Instr where
  /-- `LDA #$nn` (row LDA__imm, rule R110): the literal. -/
  | ldaImm (nn : Byte)
  /-- `LDA $nn` (row LDA_zp, rule R111): the zero-page address. -/
  | ldaZp (nn : Byte)
  /-- `LDA $nn,X` (row LDA_zp_X, rule R112): the zero-page base. -/
  | ldaZpX (nn : Byte)
  /-- `JSR $hhll` (row JSR_abs, rule R120): the 16-bit target. -/
  | jsrAbs (target : Word)
deriving DecidableEq, Repr

/-- The four entries of the "fixed mapping from opcode value to operation" (rules R74, R75). -/
inductive Opcode where
  | ldaImm
  | ldaZp
  | ldaZpX
  | jsrAbs
deriving DecidableEq, Repr

/-- The three instruction formats: opcode alone (R73), opcode and an operand byte (R71), opcode and an operand word
(R72). -/
inductive Format where
  | op
  | opB
  | opW
deriving DecidableEq, Repr

/-- What the decoder says of the bytes at an instruction's address. -/
inductive Decoded where
  /-- One of the four instructions. -/
  | instr (i : Instr)
  /-- The opcode byte is not in the table (rule R76): the rejection by name. -/
  | unknownOpcode (op : Byte)
deriving DecidableEq, Repr

/-- What the decoder says of the front of a list of bytes. -/
inductive StreamDecoded where
  /-- An item and the bytes after it. -/
  | item (d : Decoded) (rest : List Byte)
  /-- The list ends before the item does. -/
  | truncated
deriving DecidableEq, Repr

/-- The table entry an instruction belongs to. -/
def Instr.opcode : Instr → Opcode
  | .ldaImm _ => .ldaImm
  | .ldaZp _ => .ldaZp
  | .ldaZpX _ => .ldaZpX
  | .jsrAbs _ => .jsrAbs

end Sys2Proof
end

