-- ==== Sys2Proof/WellFormed.lean ====
section
/-! DEFINITION. Well-formedness of an instruction. The fields of `Instr` carry their widths in their types, and the spec
makes every value of every operand legal (R79: the literal is "used as is"; R80, R81: every zero-page byte; R82: "any
value 0..0xFFFF legal"), so there is no check to make and no ill-formed term. Log entry 12. -/

namespace Sys2Proof

/-- Every instruction is well formed. -/
def Instr.wellFormed : Instr → Bool
  | .ldaImm _ => true
  | .ldaZp _ => true
  | .ldaZpX _ => true
  | .jsrAbs _ => true

end Sys2Proof
end

