-- ==== Sys2Proof/Decode.lean ====
section
/-! DEFINITION. The byte-order helpers, the opcode map, the decoder and the encoder (30_encoding.md). The decoder is
total: an opcode byte outside the table is answered by the name `unknownOpcode`. -/

namespace Sys2Proof

/-- `w[7:0]`. -/
def lowByte (w : Word) : Byte := w.extractLsb' 0 8

/-- `w[15:8]`. -/
def highByte (w : Word) : Byte := w.extractLsb' 8 8

/-- `hi:lo = hi * 256 + lo` (00_scope.md section 6). -/
def wordOf (hi lo : Byte) : Word := hi ++ lo

/-- `zext_16(b)`. -/
def zext16 (b : Byte) : Word := b.setWidth 16

/-- The opcode byte of a table entry (Table OPC, rule R75). -/
def Opcode.byte : Opcode → Byte
  | .ldaImm => 0xA9
  | .ldaZp => 0xA5
  | .ldaZpX => 0xB5
  | .jsrAbs => 0x20

/-- The table entry of an opcode byte, by comparing all 8 bits in the order of rule R98; none for an unknown opcode
(rules R74, R76). -/
def Opcode.ofByte (op : Byte) : Option Opcode :=
  if op = 0xA9 then some .ldaImm
  else if op = 0xA5 then some .ldaZp
  else if op = 0xB5 then some .ldaZpX
  else if op = 0x20 then some .jsrAbs
  else none

/-- The format of a table entry (Table OPC). -/
def Opcode.format : Opcode → Format
  | .ldaImm => .opB
  | .ldaZp => .opB
  | .ldaZpX => .opB
  | .jsrAbs => .opW

/-- How many bytes a format takes (rule R70). -/
def Format.length : Format → Nat
  | .op => 1
  | .opB => 2
  | .opW => 3

/-- The format of the instruction that begins with this byte: byte 0 alone decides it (rules R70, R73, R78). -/
def formatOf (op : Byte) : Format :=
  match Opcode.ofByte op with
  | some o => o.format
  | none => .op

/-- The instruction of a table entry with operand bytes 1 and 2 (R79 to R82); an entry of format OP_B has no byte 2. -/
def Opcode.withOperands (o : Opcode) (b1 b2 : Byte) : Instr :=
  match o with
  | .ldaImm => .ldaImm b1
  | .ldaZp => .ldaZp b1
  | .ldaZpX => .ldaZpX b1
  | .jsrAbs => .jsrAbs (wordOf b2 b1)

/-- The decoder: bytes 0, 1, 2 of an instruction, of which those past its length play no part. -/
def decode (b0 b1 b2 : Byte) : Decoded :=
  match Opcode.ofByte b0 with
  | some o => .instr (o.withOperands b1 b2)
  | none => .unknownOpcode b0

/-- The decoder on the front of a list of bytes; an unknown opcode takes one byte (rules R73, R78). -/
def decodeBytes : List Byte → StreamDecoded
  | [] => .truncated
  | b0 :: more =>
    match formatOf b0, more with
    | .op, rest => .item (decode b0 0 0) rest
    | .opB, b1 :: rest => .item (decode b0 b1 0) rest
    | .opW, b1 :: b2 :: rest => .item (decode b0 b1 b2) rest
    | .opB, _ => .truncated
    | .opW, _ => .truncated

/-- The length in bytes of what was decoded (rule R70). -/
def Decoded.length : Decoded → Nat
  | .instr i => i.opcode.format.length
  | .unknownOpcode _ => Format.op.length

/-- The encoder: the bytes of an instruction, lowest address first (Tables OP_B and OP_W). -/
def encode : Instr → List Byte
  | .ldaImm nn => [Opcode.byte .ldaImm, nn]
  | .ldaZp nn => [Opcode.byte .ldaZp, nn]
  | .ldaZpX nn => [Opcode.byte .ldaZpX, nn]
  | .jsrAbs target => [Opcode.byte .jsrAbs, lowByte target, highByte target]

/-- Byte `k` of an instruction whose bits are `w` as spec/opcode_table.json numbers them, every bit from `nbits` up
being 0. -/
def tableByte (nbits w k : Nat) : Byte := BitVec.ofNat 8 (w % 2 ^ nbits / 256 ^ k)

/-- The instruction the decoder reads from such bits, none where it refuses them. -/
def decodeTableWord (nbits w : Nat) : Option Instr :=
  match decode (tableByte nbits w 0) (tableByte nbits w 1) (tableByte nbits w 2) with
  | .instr i => some i
  | .unknownOpcode _ => none

end Sys2Proof
end

