-- ==== Sys2Proof/Machine/State.lean ====
section
/-! DEFINITION. The state of the machine (10_state.md rule R10), its value after reset (70_reset_and_hazards.md rule
R150) and the reasons a step or a host transaction can stop. -/

namespace Sys2Proof.Machine

/-- One record of the diagnostic log (rule R132). -/
structure DiagRecord where
  /-- The unknown opcode byte. -/
  value : Byte
  /-- The address it was fetched from. -/
  address : Word
deriving DecidableEq, Repr

/-- The AddressSpace as a list of (address, byte) pairs. Its canonical form is `Memory.Wf` (Machine/Ops.lean): addresses
below 65536 and strictly rising, no byte 0x00, which is what an unlisted address reads as. -/
abbrev Memory := List Host.Cell

/-- The names of the seven status flags (rule R18). -/
inductive Flag where
  | c | z | i | d | b | v | n
deriving DecidableEq, Repr

/-- All the state the spec gives the machine (rule R10). -/
structure State where
  /-- Program counter (R14). -/
  pc : Word
  /-- Stack pointer, a full address that grows upward (R16). -/
  sp : Word
  /-- Accumulator (R11). -/
  a : Byte
  /-- Index register X (R12). -/
  x : Byte
  /-- Index register Y (R13). -/
  y : Byte
  /-- Carry (R19). -/
  flagC : Bool
  /-- Zero (R20). -/
  flagZ : Bool
  /-- Interrupt-disable (R21). -/
  flagI : Bool
  /-- Decimal (R22). -/
  flagD : Bool
  /-- Break (R23). -/
  flagB : Bool
  /-- Overflow (R24). -/
  flagV : Bool
  /-- Negative (R25). -/
  flagN : Bool
  /-- Remaining-cycle counter, a signed integer without a width (R26). -/
  cyc : Int
  /-- Diagnostic log, oldest record first (R27). -/
  diag : List DiagRecord
  /-- The AddressSpace (R40). -/
  mem : Memory
deriving DecidableEq, Repr

/-- The machine right after `Reset` (rule R150): every value is the spec's. -/
def State.reset : State where
  pc := 0xFFFC
  sp := 0x0100
  a := 0x00
  x := 0x00
  y := 0x00
  flagC := false
  flagZ := false
  flagI := false
  flagD := false
  flagB := false
  flagV := false
  flagN := false
  cyc := 0
  diag := []
  mem := []

/-- No step of this hardware ends in a fault: an unknown opcode goes on (R131) and there is no other error condition
(R130, R134, R135). So there is no constructor. Log entry 11. -/
inductive Fault where
deriving DecidableEq, Repr

/-- Why the model gives no next state. No step refuses; the host boundary does. -/
inductive Refusal where
  /-- Raised by an arm of `exec` for an instruction without a meaning yet. No arm raises it. Safe. -/
  | notModelled (mnemonic : String)
  /-- Raised by `transact` for `HostWrite`, `Execute` or `Observe` before the first `Reset` (R152). Safe. -/
  | beforeFirstReset
  /-- Raised by `transact` for an `Execute` whose budget is above `BUDGET_MAX` (R155). Safe. -/
  | budgetAboveMax (budget : Nat)
deriving DecidableEq, Repr

end Sys2Proof.Machine
end

