-- ==== Sys2Proof/Machine/Ops.lean ====
section
/-! DEFINITION. The named operations on memory and registers: the AddressSpace (20_memory.md), the state updates, the six
primitives with their costs (40_primitives_and_sequencer.md section 1), the push, and the report of an unknown opcode,
the only event of this hardware (60_exceptions.md rule R131). -/

namespace Sys2Proof.Machine

/-- What an address that the list does not name reads as: 0x00, the contents after reset (rules R41, R42). -/
def Memory.unlisted : Byte := 0x00

/-- The canonical form of a memory. -/
abbrev Memory.Wf (m : Memory) : Prop :=
  m.Pairwise (fun c d => c.1 < d.1) ∧ ∀ c ∈ m, c.1 < 65536 ∧ c.2 ≠ Memory.unlisted

/-- The byte at an address (`read`, rule R41). -/
def Memory.read : Memory → Nat → Byte
  | [], _ => Memory.unlisted
  | (k, v) :: rest, a => if k = a then v else Memory.read rest a

/-- The memory with no cell at the address. -/
def Memory.without (m : Memory) (a : Nat) : Memory := m.filter fun c => c.1 ≠ a

/-- The memory with a cell put before the first cell of a higher address. -/
def Memory.place : Memory → Host.Cell → Memory
  | [], c => [c]
  | d :: rest, c => if c.1 < d.1 then c :: d :: rest else d :: Memory.place rest c

/-- Store a byte at an address (`write`, rule R41), keeping the canonical form: 0x00 is stored by listing nothing. -/
def Memory.write (m : Memory) (a : Nat) (v : Byte) : Memory :=
  if v = Memory.unlisted then m.without a else (m.without a).place (a, v)

/-- All 65536 bytes zero (`reset()`, rule R41). -/
def Memory.zeroed : Memory := []

/-- `MemRead(addr, 1)`. -/
def memRead (s : State) (addr : Word) : Byte := s.mem.read addr.toNat

/-- `MemWrite(addr, 1, v)`. -/
def memWrite (addr : Word) (v : Byte) (s : State) : State := { s with mem := s.mem.write addr.toNat v }

/-- `cyc <- cyc - k`. -/
def charge (k : Nat) (s : State) : State := { s with cyc := s.cyc - k }

/-- `PC <- v`. -/
def setPc (v : Word) (s : State) : State := { s with pc := v }

/-- `SP <- v`. -/
def setSp (v : Word) (s : State) : State := { s with sp := v }

/-- `A <- v`. -/
def setA (v : Byte) (s : State) : State := { s with a := v }

/-- `X <- v`: the host's move only (R12). -/
def setX (v : Byte) (s : State) : State := { s with x := v }

/-- `Y <- v`: the host's move only (R13). -/
def setY (v : Byte) (s : State) : State := { s with y := v }

/-- `FetchByte()` (rule R90). -/
def fetchByte (s : State) : Byte × State := (memRead s s.pc, charge 1 (setPc (s.pc + 1) s))

/-- `FetchWord()` (rule R91): low byte first, the high byte at the next address mod 65536 (R44). -/
def fetchWord (s : State) : Word × State :=
  (wordOf (memRead s (s.pc + 1)) (memRead s s.pc), charge 2 (setPc (s.pc + 2) s))

/-- `ReadByte(a)` (rule R92). -/
def readByte (addr : Word) (s : State) : Byte × State := (memRead s addr, charge 1 s)

/-- `WriteWord(a, v)` (rule R93): low byte at `a`, then high byte at `(a + 1) mod 65536` (R45). -/
def writeWord (addr v : Word) (s : State) : State :=
  charge 2 (memWrite (addr + 1) (highByte v) (memWrite addr (lowByte v) s))

/-- `AddByte(x, y)` (rule R94): no flag is touched. -/
def addByte (x y : Byte) (s : State) : Byte × State := (x + y, charge 1 s)

/-- The word subtraction at a stated cost. -/
def subWordCosting (cost : Nat) (x y : Word) (s : State) : Word × State := (x - y, charge cost s)

/-- `SubWord(x, y)` (rule R95): no flag is touched. -/
def subWord (x y : Word) (s : State) : Word × State := subWordCosting 1 x y s

/-- The address at which a push stores the low byte of its word: the old `SP` (R16, R120). -/
def pushAddress (s : State) : Word := s.sp

/-- The push of JSR (rule R120): `WriteWord` at the old `SP`, then `SP + 2` mod 65536 at no cost (R16, R17). -/
def pushWord (v : Word) (s : State) : State := setSp (s.sp + 2) (writeWord (pushAddress s) v s)

/-- `report UnknownOpcode(op, a0)` (rule R131), the one event of this hardware: a record is appended, control is not
diverted, nothing is saved and nothing is charged (R138, D24). -/
def reportUnknownOpcode (op : Byte) (a0 : Word) (s : State) : State :=
  { s with diag := s.diag ++ [{ value := op, address := a0 }] }

/-- The flag of that name. -/
def getFlag (f : Flag) (s : State) : Bool :=
  match f with
  | .c => s.flagC
  | .z => s.flagZ
  | .i => s.flagI
  | .d => s.flagD
  | .b => s.flagB
  | .v => s.flagV
  | .n => s.flagN

/-- The state with that flag set to `b`. The seven flags are independent: there is no packed byte (R18, D10). -/
def setFlag (f : Flag) (b : Bool) (s : State) : State :=
  match f with
  | .c => { s with flagC := b }
  | .z => { s with flagZ := b }
  | .i => { s with flagI := b }
  | .d => { s with flagD := b }
  | .b => { s with flagB := b }
  | .v => { s with flagV := b }
  | .n => { s with flagN := b }

/-- Store bytes at consecutive addresses mod 65536, the first at `addr`. -/
def storeBytes (addr : Word) : List Byte → State → State
  | [], s => s
  | v :: rest, s => storeBytes (addr + 1) rest (memWrite addr v s)

end Sys2Proof.Machine
end

