-- ==== Sys2Proof/Machine/Operands.lean ====
section
/-! DEFINITION. The address-mode resolver: the four operand forms (30_encoding.md rules R79 to R82). The operand
bytes have already been fetched. -/

namespace Sys2Proof.Machine

/-- Immediate (R79): the operand byte is the literal. -/
def immediate (nn : Byte) : Byte := nn

/-- Zero page (R80): `zext_16` of the operand byte. -/
def zeroPage (nn : Byte) : Word := zext16 nn

/-- Zero page,X (R81): `zext_16((nn + X) mod 256)`, the sum computed, and charged, by `AddByte`. -/
def zeroPageX (nn : Byte) (s : State) : Word × State :=
  let sum := addByte nn s.x s
  (zext16 sum.1, sum.2)

/-- Absolute (R82): the operand word is the target, as it is. -/
def absolute (target : Word) : Word := target

end Sys2Proof.Machine
end

