-- ==== Sys2Proof/Machine/Jsr.lean ====
section
/-! DEFINITION. Control transfer: JSR (42_jsr.md). The meaning starts after the opcode and target fetches, so `PC` is the
address after the instruction. -/

namespace Sys2Proof.Machine

/-- The body of JSR (rule R120) with `PC - 1` charged `cost` units: push `PC - 1` at the old `SP`, move `SP` up by 2, set
`PC`, and pay the extra cycle. -/
def jsrCosting (cost : Nat) (target : Word) (s : State) : State :=
  let ret := subWordCosting cost s.pc 1 s
  charge 1 (setPc (absolute target) (pushWord ret.1 ret.2))

/-- JSR absolute (rule R120); `PC - 1` is charged `C_JSR_SUB` (D3). -/
def execJsrAbs (target : Word) (s : State) : Host.Outcome State Fault Refusal :=
  .next (jsrCosting Config.cJsrSub target s)

end Sys2Proof.Machine
end

