-- ==== Sys2Proof/Machine/Flags.lean ====
section
/-! DEFINITION. The one flag computation of the hardware (41_lda.md rule R113). -/

namespace Sys2Proof.Machine

/-- `Z` of a byte: it is 0x00. -/
def zeroOf (v : Byte) : Bool := decide (v = 0x00)

/-- `N` of a byte: its bit 7. -/
def negativeOf (v : Byte) : Bool := v.getLsbD 7

/-- `SetFlagsZN()` (rule R113): from the accumulator just written; both flags are always written, no other flag is, and it
costs nothing. -/
def setFlagsZN (s : State) : State := { s with flagZ := zeroOf s.a, flagN := negativeOf s.a }

end Sys2Proof.Machine
end

