-- ==== Sys2Proof/Machine/Lda.lean ====
section
/-! DEFINITION. The load family (41_lda.md). Each meaning starts after the opcode and operand fetches (Machine/Fetch.lean),
which have moved `PC` past the instruction and charged one unit a byte. -/

namespace Sys2Proof.Machine

/-- What every load does with its byte: `A <- v`, then `SetFlagsZN()`. -/
def loadA (v : Byte) (s : State) : State := setFlagsZN (setA v s)

/-- LDA immediate (rule R110). -/
def execLdaImm (nn : Byte) (s : State) : Host.Outcome State Fault Refusal :=
  .next (loadA (immediate nn) s)

/-- LDA zero page (rule R111). -/
def execLdaZp (nn : Byte) (s : State) : Host.Outcome State Fault Refusal :=
  let data := readByte (zeroPage nn) s
  .next (loadA data.1 data.2)

/-- LDA zero page,X (rule R112). -/
def execLdaZpX (nn : Byte) (s : State) : Host.Outcome State Fault Refusal :=
  let ea := zeroPageX nn s
  let data := readByte ea.1 ea.2
  .next (loadA data.1 data.2)

end Sys2Proof.Machine
end

