-- ==== Sys2Proof/Machine/Dispatch.lean ====
section
/-! DEFINITION. One arm per instruction. -/

namespace Sys2Proof.Machine

/-- The handler of a decoded instruction (rule R98), run on the state after its fetches. -/
def exec (i : Instr) (s : State) : Host.Outcome State Fault Refusal :=
  match i with
  | .ldaImm nn => Sys2Proof.Machine.execLdaImm nn s
  | .ldaZp nn => Sys2Proof.Machine.execLdaZp nn s
  | .ldaZpX nn => Sys2Proof.Machine.execLdaZpX nn s
  | .jsrAbs target => Sys2Proof.Machine.execJsrAbs target s

end Sys2Proof.Machine
end

