-- ==== Sys2Proof/Machine/Fetch.lean ====
section
/-! DEFINITION. Fetching and decoding at the program counter (rules R70, R98), the unknown-opcode step, and the placing of
an instruction where it will be fetched. -/

namespace Sys2Proof.Machine

/-- Fetch the opcode with `FetchByte` and the operand bytes its format has with `FetchByte` or `FetchWord` (R70), and
decode them. The state that comes back has `PC` past the instruction and one unit charged for each byte. -/
def fetch (s : State) : Decoded × State :=
  let opc := fetchByte s
  match formatOf opc.1 with
  | .op => (decode opc.1 0 0, opc.2)
  | .opB =>
    let operand := fetchByte opc.2
    (decode opc.1 operand.1 0, operand.2)
  | .opW =>
    let operand := fetchWord opc.2
    (decode opc.1 (lowByte operand.1) (highByte operand.1), operand.2)

/-- The end of an iteration that fetched an unknown opcode from `a0` (rule R131): an ordinary step (R144). -/
def execUnknownOpcode (op : Byte) (a0 : Word) (s : State) : Host.Outcome State Fault Refusal :=
  .next (reportUnknownOpcode op a0 s)

/-- Store an instruction of up to three bytes, given as opcode-table bits, at the program counter (log entry 2). -/
def placeAtPc (s : State) (nbits w : Nat) : State :=
  storeBytes s.pc [tableByte nbits w 0, tableByte nbits w 1, tableByte nbits w 2] s

end Sys2Proof.Machine
end

