-- ==== Sys2Proof/Machine/Step.lean ====
section
/-! DEFINITION. One iteration of the sequencer's loop. -/

namespace Sys2Proof.Machine

/-- `Step()` (rule R98): fetch, decode, and run the handler to completion, or report the unknown opcode with the address
it was fetched from. The budget is not looked at here (R99): log entry 1. -/
def step (s : State) : Host.Outcome State Fault Refusal :=
  match fetch s with
  | (.instr i, s') => exec i s'
  | (.unknownOpcode op, s') => execUnknownOpcode op s.pc s'

/-- The state with that instruction stored where `step` fetches its next one. -/
def State.withFetchWord (s : State) (nbits w : Nat) : State := placeAtPc s nbits w

end Sys2Proof.Machine
end

