-- ==== Sys2Proof/Machine/Pseudocode.lean ====
section
/-! DEFINITION. The spec's pseudocode of `Step()` and its handlers (rules R98, R110 to R112, R120, R131) statement by
statement, each handler fetching its own operand. It is the yardstick that `step`, which decodes first, is compared with;
nothing else uses it. -/

namespace Sys2Proof.Machine

/-- `LDA_immediate()` (R110). -/
def handlerLdaImmediate (s : State) : State :=
  let (nn, s) := fetchByte s
  setFlagsZN (setA nn s)

/-- `LDA_zero_page()` (R111). -/
def handlerLdaZeroPage (s : State) : State :=
  let (zp, s) := fetchByte s
  let ea := zext16 zp
  let (v, s) := readByte ea s
  setFlagsZN (setA v s)

/-- `LDA_zero_page_X()` (R112). -/
def handlerLdaZeroPageX (s : State) : State :=
  let (zp, s) := fetchByte s
  let (idx, s) := addByte zp s.x s
  let ea := zext16 idx
  let (v, s) := readByte ea s
  setFlagsZN (setA v s)

/-- `JSR()` (R120). -/
def handlerJsr (s : State) : State :=
  let (target, s) := fetchWord s
  let ret := s.pc - 1
  let s := charge Config.cJsrSub s
  let s := writeWord s.sp ret s
  let s := setSp (s.sp + 2) s
  let s := setPc target s
  charge 1 s

/-- `Step()` (R98). -/
def stepPseudocode (s : State) : State :=
  let a0 := s.pc
  let (op, s) := fetchByte s
  if op = 0xA9 then handlerLdaImmediate s
  else if op = 0xA5 then handlerLdaZeroPage s
  else if op = 0xB5 then handlerLdaZeroPageX s
  else if op = 0x20 then handlerJsr s
  else reportUnknownOpcode op a0 s

end Sys2Proof.Machine
end

