-- ==== Sys2Proof/Machine/Execute.lean ====
section
/-! DEFINITION. The cycle-budgeted sequencer: `Execute(budget)` (40_primitives_and_sequencer.md section 3) and Table COST. -/

namespace Sys2Proof.Machine

/-- The loop of `Execute` (rule R97): while `cyc > 0`, `Step()`. The check stands only between instructions (R99). The
first argument bounds the recursion; every step costs at least 1, so as much of it as `cyc` is enough (R100). -/
def runLoop : Nat → State → Host.Outcome State Fault Refusal
  | 0, s => .next s
  | n + 1, s =>
    if 0 < s.cyc then
      match step s with
      | .next t => runLoop n t
      | .fault r => .fault r
      | .refused r => .refused r
    else .next s

/-- `Execute(budget)` (rule R97): the budget overwrites what `cyc` held (D5). -/
def execute (budget : Nat) (s : State) : Host.Outcome State Fault Refusal :=
  runLoop budget { s with cyc := budget }

/-- How many iterations that loop makes. -/
def loopCount : Nat → State → Nat
  | 0, _ => 0
  | n + 1, s =>
    if 0 < s.cyc then
      match step s with
      | .next t => loopCount n t + 1
      | .fault _ => 1
      | .refused _ => 1
    else 0

/-- How many instructions `Execute(budget)` runs, unknown opcodes among them. -/
def iterations (budget : Nat) (s : State) : Nat := loopCount budget { s with cyc := budget }

/-- Table COST (rule R104): the budget units of one iteration, opcode fetch included. -/
def cost : Decoded → Nat
  | .instr (.ldaImm _) => 2
  | .instr (.ldaZp _) => 3
  | .instr (.ldaZpX _) => 4
  | .instr (.jsrAbs _) => 6 + Config.cJsrSub
  | .unknownOpcode _ => 1

end Sys2Proof.Machine
end

