-- ==== Sys2Proof/Machine/Transactions.lean ====
section
/-! DEFINITION. The boundary of the hardware: the four host transactions, one at a time, each atomic
(70_reset_and_hazards.md sections 1 and 2; 92_eei_decisions.md D9). -/

namespace Sys2Proof.Machine

/-- One element the host may write while the engine is idle (rule R153): not `cyc`, not `diag`. -/
inductive HostWrite where
  | mem (addr : Word) (v : Byte)
  | pc (v : Word)
  | sp (v : Word)
  | a (v : Byte)
  | x (v : Byte)
  | y (v : Byte)
  | flag (f : Flag) (b : Bool)
deriving DecidableEq, Repr

/-- What `Observe` returns (rules R32, R154): everything but `cyc`. The bytes of memory come as the canonical list. -/
structure Observation where
  pc : Word
  sp : Word
  a : Byte
  x : Byte
  y : Byte
  flagC : Bool
  flagZ : Bool
  flagI : Bool
  flagD : Bool
  flagB : Bool
  flagV : Bool
  flagN : Bool
  diag : List DiagRecord
  mem : Memory
deriving DecidableEq, Repr

/-- The four transactions. A budget is a natural number (R155), so a negative one is not expressible. -/
inductive Transaction where
  | reset
  | hostWrite (w : HostWrite)
  | execute (budget : Nat)
  | observe
deriving DecidableEq, Repr

/-- The hardware as the host sees it: before the first `Reset` nothing is specified (R152); after it there is a state. The
engine is idle between transactions. -/
inductive Boundary where
  | beforeReset
  | ready (s : State)
deriving DecidableEq, Repr

/-- `HostWrite` (rule R153). -/
def hostWrite (w : HostWrite) (s : State) : State :=
  match w with
  | .mem addr v => memWrite addr v s
  | .pc v => setPc v s
  | .sp v => setSp v s
  | .a v => setA v s
  | .x v => setX v s
  | .y v => setY v s
  | .flag f b => setFlag f b s

/-- `Observe` (rule R154). -/
def observe (s : State) : Observation where
  pc := s.pc
  sp := s.sp
  a := s.a
  x := s.x
  y := s.y
  flagC := s.flagC
  flagZ := s.flagZ
  flagI := s.flagI
  flagD := s.flagD
  flagB := s.flagB
  flagV := s.flagV
  flagN := s.flagN
  diag := s.diag
  mem := s.mem

/-- `Reset` (rule R150) read no state: neither the registers nor the memory it clears. -/
def resetMachine (_ : Boundary) : State := { State.reset with mem := Memory.zeroed }

/-- Whether a machine with that `BUDGET_MAX` accepts the budget (R155). -/
def budgetAccepted (budgetMax : Option Nat) (budget : Nat) : Bool :=
  match budgetMax with
  | none => true
  | some most => decide (budget ≤ most)

/-- One transaction: the boundary after it and what it returned. Before the first `Reset` only `Reset` is admitted (R152,
D14). -/
def transact (t : Transaction) (b : Boundary) :
    Host.Outcome (Boundary × Option Observation) Fault Refusal :=
  match t, b with
  | .reset, b => .next (.ready (resetMachine b), none)
  | .hostWrite _, .beforeReset => .refused .beforeFirstReset
  | .execute _, .beforeReset => .refused .beforeFirstReset
  | .observe, .beforeReset => .refused .beforeFirstReset
  | .hostWrite w, .ready s => .next (.ready (hostWrite w s), none)
  | .execute budget, .ready s =>
    if budgetAccepted Config.budgetMax budget then
      match execute budget s with
      | .next t => .next (.ready t, none)
      | .fault r => .fault r
      | .refused r => .refused r
    else .refused (.budgetAboveMax budget)
  | .observe, .ready s => .next (.ready s, some (observe s))

end Sys2Proof.Machine
end

