-- ==== Sys2Proof/Safety.lean ====
section
/-! DEFINITION. What claims speak of: the state of an outcome, the invariant, and a run in which nothing went wrong. -/

namespace Sys2Proof.Machine

/-- The next state of an outcome, if there is one. -/
def nextState : Host.Outcome State Fault Refusal → Option State
  | .next s => some s
  | .fault _ => none
  | .refused _ => none

/-- The invariant of the machine: the memory is in its canonical form. The widths of rule R28 are in the types. -/
abbrev State.Inv (s : State) : Prop := Memory.Wf s.mem

/-- The invariant at the host boundary. -/
def Boundary.Inv : Boundary → Prop
  | .beforeReset => True
  | .ready s => s.Inv

/-- The gone-wrong predicate of rule R144: from `launch` to `final` the log did not grow, so no unknown opcode was
executed. -/
def ranClean (launch final : State) : Prop := final.diag = launch.diag

end Sys2Proof.Machine
end

