-- ==== Sys2Proof/Certificates/Slice0/Obligations.lean ====
section
/-! DEFINITION. The statements about the model. Each docstring names the rule of spec/ it formalises. -/

open Sys2Proof Sys2Proof.Machine

-- ---- reset and the host boundary ----

/-- Reset (R150, with the spec's decisions D6 and D19): from any boundary it leaves these values, reads nothing, and every
byte of memory is 0x00. -/
def Obligations.ResetLeavesTheSpecsValues : Prop :=
  (∀ b : Boundary, transact .reset b = .next (.ready State.reset, none)) ∧
  State.reset.pc = 0xFFFC ∧ State.reset.sp = 0x0100 ∧
  State.reset.a = 0 ∧ State.reset.x = 0 ∧ State.reset.y = 0 ∧
  (∀ f : Flag, getFlag f State.reset = false) ∧
  State.reset.cyc = 0 ∧ State.reset.diag = [] ∧
  ∀ addr : Word, memRead State.reset addr = 0

/-- The loop of R150 that stores 0x00 at every address leaves, from any canonical memory (the model's representation,
log entry 5), the zeroed memory of reset. -/
def Obligations.StoringZeroEverywhereGivesResetMemory : Prop :=
  ∀ m : Memory, m.Wf → (List.range 65536).foldl (fun m a => m.write a 0x00) m = State.reset.mem

/-- Before the first `Reset` no other transaction is admitted (R152, the spec's decision D14). -/
def Obligations.NothingButResetBeforeReset : Prop :=
  ∀ t : Transaction, t ≠ .reset → transact t .beforeReset = .refused .beforeFirstReset

/-- `HostWrite` sets the one element it names and nothing else (R153, D7). -/
def Obligations.HostWriteSetsOneElement : Prop :=
  ∀ (s : State) (w : HostWrite),
    transact (.hostWrite w) (.ready s) = .next (.ready (hostWrite w s), none) ∧
    match w with
    | .mem addr v =>
      hostWrite w s = { s with mem := (hostWrite w s).mem } ∧
      ∀ b : Word, memRead (hostWrite w s) b = if b = addr then v else memRead s b
    | .pc v => hostWrite w s = { s with pc := v }
    | .sp v => hostWrite w s = { s with sp := v }
    | .a v => hostWrite w s = { s with a := v }
    | .x v => hostWrite w s = { s with x := v }
    | .y v => hostWrite w s = { s with y := v }
    | .flag f b =>
      (∀ g : Flag, getFlag g (hostWrite w s) = if g = f then b else getFlag g s) ∧
      hostWrite w s =
        { s with
          flagC := (hostWrite w s).flagC
          flagZ := (hostWrite w s).flagZ
          flagI := (hostWrite w s).flagI
          flagD := (hostWrite w s).flagD
          flagB := (hostWrite w s).flagB
          flagV := (hostWrite w s).flagV
          flagN := (hostWrite w s).flagN }

/-- `Observe` changes nothing and shows everything but `cyc` (R32, R154, with the spec's decision D7 on what the host may
see). That the bytes of memory are shown as the model's list, so that one observation is one list, is the model's choice
(log entry 10). -/
def Obligations.ObserveShowsAllButCyc : Prop :=
  (∀ s : State, transact .observe (.ready s) = .next (.ready s, some (observe s))) ∧
  ∀ s s' : State, observe s = observe s' ↔ s' = { s with cyc := s'.cyc }

/-- The transaction `Execute` runs a budget within `BUDGET_MAX` to completion and refuses one above it (R155, U12). -/
def Obligations.ExecuteTransactionAcceptsBudgetsUpToTheMaximum : Prop :=
  (∀ most budget : Nat, budgetAccepted (some most) budget = true ↔ budget ≤ most) ∧
  (∀ budget : Nat, budgetAccepted none budget = true) ∧
  ∀ (budget : Nat) (s : State), ∃ t : State,
    execute budget s = .next t ∧
    transact (.execute budget) (.ready s) =
      if budgetAccepted Config.budgetMax budget then .next (.ready t, none) else .refused (.budgetAboveMax budget)

/-- The invariant, the canonical form of memory (the model's representation, log entry 5), holds at reset. -/
def Obligations.ResetMeetsTheInvariant : Prop := State.reset.Inv

/-- Every transaction of the host (R150, R153 to R155, with the spec's decision D7) keeps the invariant, runs of any length
among them. The canonical form that the invariant says memory has is the model's choice (log entry 5), not the spec's. -/
def Obligations.EveryTransactionKeepsTheInvariant : Prop :=
  ∀ (t : Transaction) (b b' : Boundary) (seen : Option Observation),
    b.Inv → transact t b = .next (b', seen) → b'.Inv

-- ---- memory ----

/-- A byte read after a store is the stored byte at that address and the old byte elsewhere (R41, R42). -/
def Obligations.StoreThenLoadReturnsTheByte : Prop :=
  ∀ (s : State) (addr b : Word) (v : Byte),
    memRead (memWrite addr v s) b = if b = addr then v else memRead s b

/-- A byte stored at `PC` is what the very next fetch returns (R54). -/
def Obligations.FetchSeesTheLastStore : Prop :=
  ∀ (s : State) (v : Byte), (fetchByte (memWrite s.pc v s)).1 = v

/-- The canonical form is canonical: two memories in it that read alike at every address are equal (log entry 5). -/
def Obligations.CanonicalMemoriesThatReadAlikeAreEqual : Prop :=
  ∀ m m' : Memory, m.Wf → m'.Wf → (∀ addr : Word, m.read addr.toNat = m'.read addr.toNat) → m = m'

-- ---- the primitives ----

/-- `FetchByte` (R90). -/
def Obligations.FetchByteReadsAtPcAndAdvances : Prop :=
  ∀ s : State,
    fetchByte s =
      (memRead s s.pc, { s with pc := BitVec.ofNat 16 ((s.pc.toNat + 1) % 65536), cyc := s.cyc - 1 })

/-- `FetchWord` (R91): the low byte first, the high byte at the next address mod 65536. -/
def Obligations.FetchWordReadsLittleEndian : Prop :=
  ∀ s : State,
    (fetchWord s).1.toNat =
      (memRead s (BitVec.ofNat 16 ((s.pc.toNat + 1) % 65536))).toNat * 256 + (memRead s s.pc).toNat ∧
    (fetchWord s).2 = { s with pc := BitVec.ofNat 16 ((s.pc.toNat + 2) % 65536), cyc := s.cyc - 2 }

/-- `ReadByte` (R92): any address, `PC` not moved. -/
def Obligations.ReadByteLeavesThePc : Prop :=
  ∀ (addr : Word) (s : State), readByte addr s = (memRead s addr, { s with cyc := s.cyc - 1 })

/-- `WriteWord` (R93): `v[7:0]` at `a`, `v[15:8]` at `(a + 1) mod 65536`, two units, nothing else. -/
def Obligations.WriteWordStoresLittleEndian : Prop :=
  ∀ (addr v : Word) (s : State),
    (memRead (writeWord addr v s) addr).toNat = v.toNat % 256 ∧
    (memRead (writeWord addr v s) (BitVec.ofNat 16 ((addr.toNat + 1) % 65536))).toNat = v.toNat / 256 ∧
    (∀ b : Word, b ≠ addr → b ≠ addr + 1 → memRead (writeWord addr v s) b = memRead s b) ∧
    writeWord addr v s = { s with cyc := s.cyc - 2, mem := (writeWord addr v s).mem }

/-- `AddByte` (R94): modulo 256, one unit, no flag. -/
def Obligations.AddByteWrapsAndSetsNoFlag : Prop :=
  ∀ (x y : Byte) (s : State),
    (addByte x y s).1.toNat = (x.toNat + y.toNat) % 256 ∧ (addByte x y s).2 = { s with cyc := s.cyc - 1 }

/-- `SubWord` (R95): modulo 65536, one unit, no flag. -/
def Obligations.SubWordWrapsAndSetsNoFlag : Prop :=
  ∀ (x y : Word) (s : State),
    ((subWord x y s).1.toNat : Int) = ((x.toNat : Int) - (y.toNat : Int)) % 65536 ∧
    (subWord x y s).2 = { s with cyc := s.cyc - 1 }

-- ---- decoding ----

/-- The operand forms (R79 to R82): the literal as it is; the zero-page byte; that byte plus `X` mod 256, by `AddByte`; the
target with byte 2 as its high byte. -/
def Obligations.OperandFormsAreAssembledAsTheSpecSays : Prop :=
  ∀ (b1 b2 : Byte) (s : State),
    decode 0xA9 b1 b2 = .instr (.ldaImm b1) ∧ immediate b1 = b1 ∧
    decode 0xA5 b1 b2 = .instr (.ldaZp b1) ∧ (zeroPage b1).toNat = b1.toNat ∧
    decode 0xB5 b1 b2 = .instr (.ldaZpX b1) ∧
    (zeroPageX b1 s).1.toNat = (b1.toNat + s.x.toNat) % 256 ∧ (zeroPageX b1 s).2 = (addByte b1 s.x s).2 ∧
    ∃ target : Word,
      decode 0x20 b1 b2 = .instr (.jsrAbs target) ∧ (absolute target).toNat = b2.toNat * 256 + b1.toNat

/-- The opcode map (30_encoding.md section 4): a byte in one of the five ranges of R76, and no other byte, is named unknown,
whatever follows it. -/
def Obligations.AllOtherOpcodesAreUnknown : Prop :=
  ∀ op b1 b2 : Byte,
    decode op b1 b2 = .unknownOpcode op ↔
      op.toNat ≤ 0x1F ∨ (0x21 ≤ op.toNat ∧ op.toNat ≤ 0xA4) ∨ (0xA6 ≤ op.toNat ∧ op.toNat ≤ 0xA8) ∨
      (0xAA ≤ op.toNat ∧ op.toNat ≤ 0xB4) ∨ 0xB6 ≤ op.toNat

/-- Words written out from Table OPC decode to the instructions they stand for. -/
def Obligations.WordsOfTheTableDecode : Prop :=
  decode 0b10101001 0x42 0x00 = .instr (.ldaImm 0x42) ∧
  decode 0b10100101 0x10 0x00 = .instr (.ldaZp 0x10) ∧
  decode 0b10110101 0xFF 0x00 = .instr (.ldaZpX 0xFF) ∧
  decode 0b00100000 0x42 0x69 = .instr (.jsrAbs 0x6942) ∧
  decode 0b11101010 0x00 0x00 = .unknownOpcode 0xEA

/-- The decoder reads an instruction at the front of a stream of bytes exactly when the front is its encoding, whatever
the operands and whatever follows: no two byte strings stand for one instruction and no bit is dropped. -/
def Obligations.DecoderReadsExactlyTheEncodings : Prop :=
  ∀ (bytes rest : List Byte) (i : Instr), i.wellFormed = true →
    (decodeBytes bytes = .item (.instr i) rest ↔ bytes = encode i ++ rest)

/-- An instruction takes as many bytes as its opcode alone decides, taken at `PC`, `PC + 1`, `PC + 2` mod 65536, and where
control is not transferred `PC` has advanced by that length (R70). -/
def Obligations.OpcodeDecidesTheLength : Prop :=
  ∀ s : State, ∃ n : Nat,
    (n = if memRead s s.pc = 0x20 then 3
      else if memRead s s.pc = 0xA9 ∨ memRead s s.pc = 0xA5 ∨ memRead s s.pc = 0xB5 then 2 else 1) ∧
    fetch s =
      (decode (memRead s s.pc) (memRead s (s.pc + 1)) (memRead s (s.pc + 2)),
        { s with pc := s.pc + BitVec.ofNat 16 n, cyc := s.cyc - n }) ∧
    ∃ t : State, step s = .next t ∧ (memRead s s.pc ≠ 0x20 → t.pc = s.pc + BitVec.ofNat 16 n)

-- ---- the step ----

/-- When the bytes at `PC` decode to an instruction, a step is that instruction's handler on the state after its fetches:
`PC` past its bytes, one unit charged for each. -/
def Obligations.StepRunsTheDecodedInstruction : Prop :=
  ∀ (s : State) (i : Instr),
    decode (memRead s s.pc) (memRead s (s.pc + 1)) (memRead s (s.pc + 2)) = .instr i →
    step s =
      exec i
        { s with
          pc := s.pc + BitVec.ofNat 16 i.opcode.format.length
          cyc := s.cyc - i.opcode.format.length }

/-- An instruction stored at `PC` by its encoding, the top of memory included, is what the next step runs. -/
def Obligations.AnEncodedInstructionStoredAtPcRuns : Prop :=
  ∀ (i : Instr) (s : State), i.wellFormed = true →
    step (storeBytes s.pc (encode i) s) =
      exec i
        { storeBytes s.pc (encode i) s with
          pc := s.pc + BitVec.ofNat 16 i.opcode.format.length
          cyc := s.cyc - i.opcode.format.length }

/-- The step is the pseudocode of `Step()` (R98), each handler fetching its own operand; the handlers are those of R110 to
R112, R120 and R131. -/
def Obligations.StepIsThePseudocode : Prop := ∀ s : State, step s = .next (stepPseudocode s)

/-- No step stops: every byte value at `PC` has a next state (R130, R135, R144). -/
def Obligations.EveryStepAnswersANextState : Prop := ∀ s : State, ∃ t : State, step s = .next t

/-- A step costs what Table COST says, at least 1 and at most `6 + C_JSR_SUB` (R100, R104, with the spec's decisions D3
and D24). -/
def Obligations.StepCostsWhatTheTableSays : Prop :=
  ∀ s : State, ∃ t : State,
    step s = .next t ∧
    t.cyc = s.cyc - cost (decode (memRead s s.pc) (memRead s (s.pc + 1)) (memRead s (s.pc + 2))) ∧
    s.cyc - (6 + Config.cJsrSub) ≤ t.cyc ∧ t.cyc ≤ s.cyc - 1

/-- An unknown opcode (R131, R132, with the spec's decisions D2, D13 and D24): one record of the byte and its own address,
one unit, `PC + 1`, nothing else. -/
def Obligations.UnknownOpcodeIsRecordedAndSkipped : Prop :=
  ∀ s : State,
    memRead s s.pc ≠ 0xA9 → memRead s s.pc ≠ 0xA5 → memRead s s.pc ≠ 0xB5 → memRead s s.pc ≠ 0x20 →
    step s =
      .next
        { s with
          pc := s.pc + 1
          cyc := s.cyc - 1
          diag := s.diag ++ [{ value := memRead s s.pc, address := s.pc }] }

/-- A step is clean in the sense of R144 exactly when it ran one of the four instructions. -/
def Obligations.StepIsCleanExactlyOnDefinedOpcodes : Prop :=
  ∀ s : State, ∃ t : State,
    step s = .next t ∧
    (ranClean s t ↔
      memRead s s.pc = 0xA9 ∨ memRead s s.pc = 0xA5 ∨ memRead s s.pc = 0xB5 ∨ memRead s s.pc = 0x20)

/-- No step changes `X`, `Y`, `C`, `I`, `D`, `B` or `V` (R32, R164). -/
def Obligations.StepNeverWritesXYOrTheInertFlags : Prop :=
  ∀ s : State, ∃ t : State,
    step s = .next t ∧ t.x = s.x ∧ t.y = s.y ∧
    t.flagC = s.flagC ∧ t.flagI = s.flagI ∧ t.flagD = s.flagD ∧ t.flagB = s.flagB ∧ t.flagV = s.flagV

/-- Only JSR moves `SP` or stores to memory (R16, R57). -/
def Obligations.OnlyJsrMovesSpOrStores : Prop :=
  ∀ s : State, ∃ t : State,
    step s = .next t ∧
    (memRead s s.pc ≠ 0x20 → t.sp = s.sp ∧ ∀ b : Word, memRead t b = memRead s b) ∧
    (memRead s s.pc = 0x20 → t.sp = s.sp + 2 ∧
      ∀ b : Word, b ≠ pushAddress s → b ≠ pushAddress s + 1 → memRead t b = memRead s b)

/-- `Z` and `N` (R20, R25): false after reset, written from the new `A` by every LDA, left alone by JSR and by an unknown
opcode, and read by no instruction. -/
def Obligations.ZAndNAreWrittenByLdaOnlyAndReadByNone : Prop :=
  State.reset.flagZ = false ∧ State.reset.flagN = false ∧
  ∀ s : State, ∃ t : State,
    step s = .next t ∧
    (memRead s s.pc = 0xA9 ∨ memRead s s.pc = 0xA5 ∨ memRead s s.pc = 0xB5 →
      (t.flagZ = true ↔ t.a = 0) ∧ t.flagN = t.a.getLsbD 7) ∧
    (memRead s s.pc ≠ 0xA9 → memRead s s.pc ≠ 0xA5 → memRead s s.pc ≠ 0xB5 →
      t.flagZ = s.flagZ ∧ t.flagN = s.flagN) ∧
    ∀ z n : Bool, ∃ t' : State,
      step { s with flagZ := z, flagN := n } = .next t' ∧
      { t' with flagZ := t.flagZ, flagN := t.flagN } = t

/-- A step from a state in which `Z` and `N` are not both true leaves them not both true: an LDA writes both from one byte
(R113, "can never both be true after an LDA"), and JSR and an unknown opcode leave both unchanged (R20, R25). -/
def Obligations.StepKeepsZAndNExclusive : Prop :=
  ∀ s : State, ¬(s.flagZ = true ∧ s.flagN = true) →
    ∃ t : State, step s = .next t ∧ ¬(t.flagZ = true ∧ t.flagN = true)

/-- Every step keeps the memory in its canonical form (the model's representation, log entry 5), whatever the state it
starts from. -/
def Obligations.EveryStepKeepsTheInvariant : Prop :=
  ∀ s t : State, s.Inv → step s = .next t → t.Inv

-- ---- the load family ----

/-- `SetFlagsZN` (R113): `Z` when `A` is 0, `N` when bit 7 of `A` is set, never both, nothing else; every
LDA has run it, and touches no other flag. -/
def Obligations.FlagsFollowTheAccumulatorAfterEveryLda : Prop :=
  (∀ s : State,
    setFlagsZN s = { s with flagZ := (setFlagsZN s).flagZ, flagN := (setFlagsZN s).flagN } ∧
    ((setFlagsZN s).flagZ = true ↔ s.a = 0) ∧
    ((setFlagsZN s).flagN = true ↔ 128 ≤ s.a.toNat) ∧
    ¬((setFlagsZN s).flagZ = true ∧ (setFlagsZN s).flagN = true)) ∧
  ∀ (s : State) (nn : Byte) (i : Instr), i = .ldaImm nn ∨ i = .ldaZp nn ∨ i = .ldaZpX nn →
    ∃ t : State, exec i s = .next t ∧ setFlagsZN t = t ∧
      t.flagC = s.flagC ∧ t.flagI = s.flagI ∧ t.flagD = s.flagD ∧ t.flagB = s.flagB ∧ t.flagV = s.flagV

/-- LDA immediate (R110), as a handler and as a whole step from its bytes: literal into `A`, `Z` and `N` from it, two units,
`PC + 2`, nothing else. -/
def Obligations.LdaImmediateLoadsItsLiteral : Prop :=
  (∀ (nn : Byte) (s : State),
    exec (.ldaImm nn) s =
      .next { s with a := nn, flagZ := decide (nn = 0), flagN := decide (128 ≤ nn.toNat) }) ∧
  ∀ (nn : Byte) (s : State), memRead s s.pc = 0xA9 → memRead s (s.pc + 1) = nn →
    step s =
      .next
        { s with
          a := nn
          flagZ := decide (nn = 0)
          flagN := decide (128 ≤ nn.toNat)
          pc := s.pc + 2
          cyc := s.cyc - 2 }

/-- LDA zero page (R111), as a handler and as a whole step: the byte at `0x00nn`, three units. -/
def Obligations.LdaZeroPageLoadsTheAddressedByte : Prop :=
  (∀ (nn v : Byte) (s : State), memRead s (BitVec.ofNat 16 nn.toNat) = v →
    exec (.ldaZp nn) s =
      .next { s with a := v, flagZ := decide (v = 0), flagN := decide (128 ≤ v.toNat), cyc := s.cyc - 1 }) ∧
  ∀ (nn v : Byte) (s : State), memRead s s.pc = 0xA5 → memRead s (s.pc + 1) = nn →
    memRead s (BitVec.ofNat 16 nn.toNat) = v →
    step s =
      .next
        { s with
          a := v
          flagZ := decide (v = 0)
          flagN := decide (128 ≤ v.toNat)
          pc := s.pc + 2
          cyc := s.cyc - 3 }

/-- LDA zero page,X (R112), as a handler and as a whole step: the byte at `(nn + X) mod 256`, four units, `C` untouched. -/
def Obligations.LdaZeroPageXWrapsWithinTheZeroPage : Prop :=
  (∀ (nn v : Byte) (s : State), memRead s (BitVec.ofNat 16 ((nn.toNat + s.x.toNat) % 256)) = v →
    exec (.ldaZpX nn) s =
      .next { s with a := v, flagZ := decide (v = 0), flagN := decide (128 ≤ v.toNat), cyc := s.cyc - 2 }) ∧
  ∀ (nn v : Byte) (s : State), memRead s s.pc = 0xB5 → memRead s (s.pc + 1) = nn →
    memRead s (BitVec.ofNat 16 ((nn.toNat + s.x.toNat) % 256)) = v →
    step s =
      .next
        { s with
          a := v
          flagZ := decide (v = 0)
          flagN := decide (128 ≤ v.toNat)
          pc := s.pc + 2
          cyc := s.cyc - 4 }

/-- The frame of the three loads (R114): no memory, `SP`, `X`, `Y`, other flag or `diag` is changed. -/
def Obligations.LoadsChangeOnlyAAndZN : Prop :=
  ∀ (nn : Byte) (i : Instr) (s t : State), i = .ldaImm nn ∨ i = .ldaZp nn ∨ i = .ldaZpX nn →
    exec i s = .next t →
    t.pc = s.pc ∧ t.sp = s.sp ∧ t.x = s.x ∧ t.y = s.y ∧
    t.flagC = s.flagC ∧ t.flagI = s.flagI ∧ t.flagD = s.flagD ∧ t.flagB = s.flagB ∧ t.flagV = s.flagV ∧
    t.diag = s.diag ∧ ∀ b : Word, memRead t b = memRead s b

-- ---- control transfer ----

/-- JSR as a handler (R120, with the spec's decision D3 for `C_JSR_SUB`): `PC` after the fetches less 1 is pushed low byte
first at the old `SP`, `SP` moves up by 2, `PC` is the target. -/
def Obligations.JsrPushesItsLastByteAddressAndJumps : Prop :=
  ∀ (target : Word) (s : State), ∃ t : State,
    exec (.jsrAbs target) s = .next t ∧
    t.pc = target ∧ t.sp = s.sp + 2 ∧ t.cyc = s.cyc - (3 + Config.cJsrSub) ∧
    (memRead t (s.sp + 1)).toNat * 256 + (memRead t s.sp).toNat = (s.pc.toNat + 65535) % 65536

/-- The frame of JSR: it stores to the two bytes at `pushAddress` and changes no register but `PC` and `SP`, no flag and no
record. -/
def Obligations.JsrChangesOnlyPcSpAndThePushedBytes : Prop :=
  ∀ (target : Word) (s t : State), exec (.jsrAbs target) s = .next t →
    t.a = s.a ∧ t.x = s.x ∧ t.y = s.y ∧ (∀ f : Flag, getFlag f t = getFlag f s) ∧ t.diag = s.diag ∧
    ∀ addr : Word, addr = pushAddress s → ∀ b : Word, b ≠ addr → b ≠ addr + 1 → memRead t b = memRead s b

/-- A whole JSR step from its bytes (R120, R121): the target is the word fetched before the push, the pushed word is the
address of the instruction's last byte, and the cost is `6 + C_JSR_SUB`. -/
def Obligations.JsrStepCallsTheTargetItFetched : Prop :=
  ∀ s : State, memRead s s.pc = 0x20 →
    ∃ t : State, step s = .next t ∧
      t.pc.toNat = (memRead s (s.pc + 2)).toNat * 256 + (memRead s (s.pc + 1)).toNat ∧
      t.sp.toNat = (s.sp.toNat + 2) % 65536 ∧
      t.cyc = s.cyc - (6 + Config.cJsrSub) ∧
      (memRead t (s.sp + 1)).toNat * 256 + (memRead t s.sp).toNat = (s.pc.toNat + 2) % 65536 ∧
      (∀ b : Word, b ≠ s.sp → b ≠ s.sp + 1 → memRead t b = memRead s b) ∧
      t = { s with pc := t.pc, sp := t.sp, cyc := t.cyc, mem := t.mem }

-- ---- the sequencer ----

/-- `Execute(0)` performs no operation (R101). -/
def Obligations.ExecuteZeroDoesNothing : Prop :=
  ∀ s : State, execute 0 s = .next { s with cyc := 0 } ∧ iterations 0 s = 0

/-- Every `Execute` returns, with `-(5 + C_JSR_SUB) <= cyc <= 0` (R100, R102). -/
def Obligations.ExecuteReturnsWithinTheOvershoot : Prop :=
  ∀ (budget : Nat) (s : State), ∃ t : State,
    execute budget s = .next t ∧ -(5 + (Config.cJsrSub : Int)) ≤ t.cyc ∧ t.cyc ≤ 0

/-- An `Execute` is a run of the machine's step: at least `budget / (6 + C_JSR_SUB)` and at most `budget` iterations
(R97, R100). -/
def Obligations.ExecuteIsABoundedRunOfSteps : Prop :=
  ∀ (budget : Nat) (s : State),
    execute budget s = Host.Core.run Sys2Proof.core (iterations budget s) { s with cyc := budget } ∧
    iterations budget s ≤ budget ∧ budget ≤ iterations budget s * (6 + Config.cJsrSub)

/-- A budget from 1 up to the cost of the instruction at `PC` runs exactly that one instruction (R99, R160). -/
def Obligations.SmallBudgetRunsExactlyOneInstruction : Prop :=
  ∀ (budget : Nat) (s : State), 1 ≤ budget → budget ≤ cost (fetch s).1 →
    execute budget s = step { s with cyc := budget } ∧ iterations budget s = 1

/-- What an `Execute` does is decided by what the host can observe: the counter left by earlier calls plays no part
(R7, R26, R97, with the spec's decision D5). An observation holds memory as the model's list (log entry 10). -/
def Obligations.ExecuteForgetsTheOldCounter : Prop :=
  ∀ (budget : Nat) (s s' : State), observe s = observe s' → execute budget s = execute budget s'

/-- Budgets add when the first call ends with `cyc` = 0 (R103). -/
def Obligations.BudgetsAddWhenNothingIsOvershot : Prop :=
  ∀ (first second : Nat) (s t : State), execute first s = .next t → t.cyc = 0 →
    execute (first + second) s = execute second t

/-- No run changes `X`, `Y`, `C`, `I`, `D`, `B` or `V` (R32, R164). -/
def Obligations.RunsNeverWriteXYOrTheInertFlags : Prop :=
  ∀ (budget : Nat) (s : State), ∃ t : State,
    execute budget s = .next t ∧ t.x = s.x ∧ t.y = s.y ∧
    t.flagC = s.flagC ∧ t.flagI = s.flagI ∧ t.flagD = s.flagD ∧ t.flagB = s.flagB ∧ t.flagV = s.flagV

/-- The log is append-only, and a run adds at most one record a unit, each of an unknown opcode (R27, R131, R133). -/
def Obligations.RunsOnlyAppendUnknownOpcodesToDiag : Prop :=
  ∀ (budget : Nat) (s : State), ∃ (t : State) (new : List DiagRecord),
    execute budget s = .next t ∧ t.diag = s.diag ++ new ∧ new.length ≤ budget ∧
    ∀ r ∈ new, r.value ≠ 0xA9 ∧ r.value ≠ 0xA5 ∧ r.value ≠ 0xB5 ∧ r.value ≠ 0x20

/-- The log feeds nothing back: another log at launch gives the same run and the same records added (R27, R133). -/
def Obligations.DiagNeverInfluencesARun : Prop :=
  ∀ (budget : Nat) (s : State) (other : List DiagRecord), ∃ (t : State) (new : List DiagRecord),
    execute budget s = .next t ∧ t.diag = s.diag ++ new ∧
    execute budget { s with diag := other } = .next { t with diag := other ++ new }

/-- No instruction reads a flag or `Y`: other values of them at launch change nothing else in a run (R13, R18). -/
def Obligations.FlagsAndYNeverInfluenceARun : Prop :=
  ∀ (budget : Nat) (s : State) (y : Byte) (c z i d b v n : Bool), ∃ t t' : State,
    execute budget s = .next t ∧
    execute budget
      { s with y := y, flagC := c, flagZ := z, flagI := i, flagD := d, flagB := b, flagV := v, flagN := n } =
      .next t' ∧
    t' =
      { t with
        y := y
        flagC := c
        flagZ := t'.flagZ
        flagI := i
        flagD := d
        flagB := b
        flagV := v
        flagN := t'.flagN }
end

