-- ==== Sys2Proof/Laws/State.lean ====
section
/-! SUPPORT. One lemma per field per state update, so that no later proof unfolds an update. -/

namespace Sys2Proof.Machine

@[simp] theorem charge_pc (k : Nat) (s : State) : (charge k s).pc = s.pc := rfl
@[simp] theorem charge_sp (k : Nat) (s : State) : (charge k s).sp = s.sp := rfl
@[simp] theorem charge_a (k : Nat) (s : State) : (charge k s).a = s.a := rfl
@[simp] theorem charge_x (k : Nat) (s : State) : (charge k s).x = s.x := rfl
@[simp] theorem charge_y (k : Nat) (s : State) : (charge k s).y = s.y := rfl
@[simp] theorem charge_flagC (k : Nat) (s : State) : (charge k s).flagC = s.flagC := rfl
@[simp] theorem charge_flagZ (k : Nat) (s : State) : (charge k s).flagZ = s.flagZ := rfl
@[simp] theorem charge_flagI (k : Nat) (s : State) : (charge k s).flagI = s.flagI := rfl
@[simp] theorem charge_flagD (k : Nat) (s : State) : (charge k s).flagD = s.flagD := rfl
@[simp] theorem charge_flagB (k : Nat) (s : State) : (charge k s).flagB = s.flagB := rfl
@[simp] theorem charge_flagV (k : Nat) (s : State) : (charge k s).flagV = s.flagV := rfl
@[simp] theorem charge_flagN (k : Nat) (s : State) : (charge k s).flagN = s.flagN := rfl
@[simp] theorem charge_cyc (k : Nat) (s : State) : (charge k s).cyc = s.cyc - k := rfl
@[simp] theorem charge_diag (k : Nat) (s : State) : (charge k s).diag = s.diag := rfl
@[simp] theorem charge_mem (k : Nat) (s : State) : (charge k s).mem = s.mem := rfl

@[simp] theorem setPc_pc (v : Word) (s : State) : (setPc v s).pc = v := rfl
@[simp] theorem setPc_sp (v : Word) (s : State) : (setPc v s).sp = s.sp := rfl
@[simp] theorem setPc_a (v : Word) (s : State) : (setPc v s).a = s.a := rfl
@[simp] theorem setPc_x (v : Word) (s : State) : (setPc v s).x = s.x := rfl
@[simp] theorem setPc_y (v : Word) (s : State) : (setPc v s).y = s.y := rfl
@[simp] theorem setPc_flagC (v : Word) (s : State) : (setPc v s).flagC = s.flagC := rfl
@[simp] theorem setPc_flagZ (v : Word) (s : State) : (setPc v s).flagZ = s.flagZ := rfl
@[simp] theorem setPc_flagI (v : Word) (s : State) : (setPc v s).flagI = s.flagI := rfl
@[simp] theorem setPc_flagD (v : Word) (s : State) : (setPc v s).flagD = s.flagD := rfl
@[simp] theorem setPc_flagB (v : Word) (s : State) : (setPc v s).flagB = s.flagB := rfl
@[simp] theorem setPc_flagV (v : Word) (s : State) : (setPc v s).flagV = s.flagV := rfl
@[simp] theorem setPc_flagN (v : Word) (s : State) : (setPc v s).flagN = s.flagN := rfl
@[simp] theorem setPc_cyc (v : Word) (s : State) : (setPc v s).cyc = s.cyc := rfl
@[simp] theorem setPc_diag (v : Word) (s : State) : (setPc v s).diag = s.diag := rfl
@[simp] theorem setPc_mem (v : Word) (s : State) : (setPc v s).mem = s.mem := rfl

@[simp] theorem setSp_pc (v : Word) (s : State) : (setSp v s).pc = s.pc := rfl
@[simp] theorem setSp_sp (v : Word) (s : State) : (setSp v s).sp = v := rfl
@[simp] theorem setSp_a (v : Word) (s : State) : (setSp v s).a = s.a := rfl
@[simp] theorem setSp_x (v : Word) (s : State) : (setSp v s).x = s.x := rfl
@[simp] theorem setSp_y (v : Word) (s : State) : (setSp v s).y = s.y := rfl
@[simp] theorem setSp_flagC (v : Word) (s : State) : (setSp v s).flagC = s.flagC := rfl
@[simp] theorem setSp_flagZ (v : Word) (s : State) : (setSp v s).flagZ = s.flagZ := rfl
@[simp] theorem setSp_flagI (v : Word) (s : State) : (setSp v s).flagI = s.flagI := rfl
@[simp] theorem setSp_flagD (v : Word) (s : State) : (setSp v s).flagD = s.flagD := rfl
@[simp] theorem setSp_flagB (v : Word) (s : State) : (setSp v s).flagB = s.flagB := rfl
@[simp] theorem setSp_flagV (v : Word) (s : State) : (setSp v s).flagV = s.flagV := rfl
@[simp] theorem setSp_flagN (v : Word) (s : State) : (setSp v s).flagN = s.flagN := rfl
@[simp] theorem setSp_cyc (v : Word) (s : State) : (setSp v s).cyc = s.cyc := rfl
@[simp] theorem setSp_diag (v : Word) (s : State) : (setSp v s).diag = s.diag := rfl
@[simp] theorem setSp_mem (v : Word) (s : State) : (setSp v s).mem = s.mem := rfl

@[simp] theorem setA_pc (v : Byte) (s : State) : (setA v s).pc = s.pc := rfl
@[simp] theorem setA_sp (v : Byte) (s : State) : (setA v s).sp = s.sp := rfl
@[simp] theorem setA_a (v : Byte) (s : State) : (setA v s).a = v := rfl
@[simp] theorem setA_x (v : Byte) (s : State) : (setA v s).x = s.x := rfl
@[simp] theorem setA_y (v : Byte) (s : State) : (setA v s).y = s.y := rfl
@[simp] theorem setA_flagC (v : Byte) (s : State) : (setA v s).flagC = s.flagC := rfl
@[simp] theorem setA_flagZ (v : Byte) (s : State) : (setA v s).flagZ = s.flagZ := rfl
@[simp] theorem setA_flagI (v : Byte) (s : State) : (setA v s).flagI = s.flagI := rfl
@[simp] theorem setA_flagD (v : Byte) (s : State) : (setA v s).flagD = s.flagD := rfl
@[simp] theorem setA_flagB (v : Byte) (s : State) : (setA v s).flagB = s.flagB := rfl
@[simp] theorem setA_flagV (v : Byte) (s : State) : (setA v s).flagV = s.flagV := rfl
@[simp] theorem setA_flagN (v : Byte) (s : State) : (setA v s).flagN = s.flagN := rfl
@[simp] theorem setA_cyc (v : Byte) (s : State) : (setA v s).cyc = s.cyc := rfl
@[simp] theorem setA_diag (v : Byte) (s : State) : (setA v s).diag = s.diag := rfl
@[simp] theorem setA_mem (v : Byte) (s : State) : (setA v s).mem = s.mem := rfl

@[simp] theorem setX_pc (v : Byte) (s : State) : (setX v s).pc = s.pc := rfl
@[simp] theorem setX_sp (v : Byte) (s : State) : (setX v s).sp = s.sp := rfl
@[simp] theorem setX_a (v : Byte) (s : State) : (setX v s).a = s.a := rfl
@[simp] theorem setX_x (v : Byte) (s : State) : (setX v s).x = v := rfl
@[simp] theorem setX_y (v : Byte) (s : State) : (setX v s).y = s.y := rfl
@[simp] theorem setX_flagC (v : Byte) (s : State) : (setX v s).flagC = s.flagC := rfl
@[simp] theorem setX_flagZ (v : Byte) (s : State) : (setX v s).flagZ = s.flagZ := rfl
@[simp] theorem setX_flagI (v : Byte) (s : State) : (setX v s).flagI = s.flagI := rfl
@[simp] theorem setX_flagD (v : Byte) (s : State) : (setX v s).flagD = s.flagD := rfl
@[simp] theorem setX_flagB (v : Byte) (s : State) : (setX v s).flagB = s.flagB := rfl
@[simp] theorem setX_flagV (v : Byte) (s : State) : (setX v s).flagV = s.flagV := rfl
@[simp] theorem setX_flagN (v : Byte) (s : State) : (setX v s).flagN = s.flagN := rfl
@[simp] theorem setX_cyc (v : Byte) (s : State) : (setX v s).cyc = s.cyc := rfl
@[simp] theorem setX_diag (v : Byte) (s : State) : (setX v s).diag = s.diag := rfl
@[simp] theorem setX_mem (v : Byte) (s : State) : (setX v s).mem = s.mem := rfl

@[simp] theorem setY_pc (v : Byte) (s : State) : (setY v s).pc = s.pc := rfl
@[simp] theorem setY_sp (v : Byte) (s : State) : (setY v s).sp = s.sp := rfl
@[simp] theorem setY_a (v : Byte) (s : State) : (setY v s).a = s.a := rfl
@[simp] theorem setY_x (v : Byte) (s : State) : (setY v s).x = s.x := rfl
@[simp] theorem setY_y (v : Byte) (s : State) : (setY v s).y = v := rfl
@[simp] theorem setY_flagC (v : Byte) (s : State) : (setY v s).flagC = s.flagC := rfl
@[simp] theorem setY_flagZ (v : Byte) (s : State) : (setY v s).flagZ = s.flagZ := rfl
@[simp] theorem setY_flagI (v : Byte) (s : State) : (setY v s).flagI = s.flagI := rfl
@[simp] theorem setY_flagD (v : Byte) (s : State) : (setY v s).flagD = s.flagD := rfl
@[simp] theorem setY_flagB (v : Byte) (s : State) : (setY v s).flagB = s.flagB := rfl
@[simp] theorem setY_flagV (v : Byte) (s : State) : (setY v s).flagV = s.flagV := rfl
@[simp] theorem setY_flagN (v : Byte) (s : State) : (setY v s).flagN = s.flagN := rfl
@[simp] theorem setY_cyc (v : Byte) (s : State) : (setY v s).cyc = s.cyc := rfl
@[simp] theorem setY_diag (v : Byte) (s : State) : (setY v s).diag = s.diag := rfl
@[simp] theorem setY_mem (v : Byte) (s : State) : (setY v s).mem = s.mem := rfl

@[simp] theorem memWrite_pc (addr : Word) (v : Byte) (s : State) : (memWrite addr v s).pc = s.pc := rfl
@[simp] theorem memWrite_sp (addr : Word) (v : Byte) (s : State) : (memWrite addr v s).sp = s.sp := rfl
@[simp] theorem memWrite_a (addr : Word) (v : Byte) (s : State) : (memWrite addr v s).a = s.a := rfl
@[simp] theorem memWrite_x (addr : Word) (v : Byte) (s : State) : (memWrite addr v s).x = s.x := rfl
@[simp] theorem memWrite_y (addr : Word) (v : Byte) (s : State) : (memWrite addr v s).y = s.y := rfl
@[simp] theorem memWrite_flagC (addr : Word) (v : Byte) (s : State) : (memWrite addr v s).flagC = s.flagC := rfl
@[simp] theorem memWrite_flagZ (addr : Word) (v : Byte) (s : State) : (memWrite addr v s).flagZ = s.flagZ := rfl
@[simp] theorem memWrite_flagI (addr : Word) (v : Byte) (s : State) : (memWrite addr v s).flagI = s.flagI := rfl
@[simp] theorem memWrite_flagD (addr : Word) (v : Byte) (s : State) : (memWrite addr v s).flagD = s.flagD := rfl
@[simp] theorem memWrite_flagB (addr : Word) (v : Byte) (s : State) : (memWrite addr v s).flagB = s.flagB := rfl
@[simp] theorem memWrite_flagV (addr : Word) (v : Byte) (s : State) : (memWrite addr v s).flagV = s.flagV := rfl
@[simp] theorem memWrite_flagN (addr : Word) (v : Byte) (s : State) : (memWrite addr v s).flagN = s.flagN := rfl
@[simp] theorem memWrite_cyc (addr : Word) (v : Byte) (s : State) : (memWrite addr v s).cyc = s.cyc := rfl
@[simp] theorem memWrite_diag (addr : Word) (v : Byte) (s : State) : (memWrite addr v s).diag = s.diag := rfl
@[simp] theorem memWrite_mem (addr : Word) (v : Byte) (s : State) : (memWrite addr v s).mem = s.mem.write addr.toNat v := rfl

@[simp] theorem reportUnknownOpcode_pc (op : Byte) (a0 : Word) (s : State) : (reportUnknownOpcode op a0 s).pc = s.pc := rfl
@[simp] theorem reportUnknownOpcode_sp (op : Byte) (a0 : Word) (s : State) : (reportUnknownOpcode op a0 s).sp = s.sp := rfl
@[simp] theorem reportUnknownOpcode_a (op : Byte) (a0 : Word) (s : State) : (reportUnknownOpcode op a0 s).a = s.a := rfl
@[simp] theorem reportUnknownOpcode_x (op : Byte) (a0 : Word) (s : State) : (reportUnknownOpcode op a0 s).x = s.x := rfl
@[simp] theorem reportUnknownOpcode_y (op : Byte) (a0 : Word) (s : State) : (reportUnknownOpcode op a0 s).y = s.y := rfl
@[simp] theorem reportUnknownOpcode_flagC (op : Byte) (a0 : Word) (s : State) : (reportUnknownOpcode op a0 s).flagC = s.flagC := rfl
@[simp] theorem reportUnknownOpcode_flagZ (op : Byte) (a0 : Word) (s : State) : (reportUnknownOpcode op a0 s).flagZ = s.flagZ := rfl
@[simp] theorem reportUnknownOpcode_flagI (op : Byte) (a0 : Word) (s : State) : (reportUnknownOpcode op a0 s).flagI = s.flagI := rfl
@[simp] theorem reportUnknownOpcode_flagD (op : Byte) (a0 : Word) (s : State) : (reportUnknownOpcode op a0 s).flagD = s.flagD := rfl
@[simp] theorem reportUnknownOpcode_flagB (op : Byte) (a0 : Word) (s : State) : (reportUnknownOpcode op a0 s).flagB = s.flagB := rfl
@[simp] theorem reportUnknownOpcode_flagV (op : Byte) (a0 : Word) (s : State) : (reportUnknownOpcode op a0 s).flagV = s.flagV := rfl
@[simp] theorem reportUnknownOpcode_flagN (op : Byte) (a0 : Word) (s : State) : (reportUnknownOpcode op a0 s).flagN = s.flagN := rfl
@[simp] theorem reportUnknownOpcode_cyc (op : Byte) (a0 : Word) (s : State) : (reportUnknownOpcode op a0 s).cyc = s.cyc := rfl
@[simp] theorem reportUnknownOpcode_diag (op : Byte) (a0 : Word) (s : State) : (reportUnknownOpcode op a0 s).diag = s.diag ++ [{ value := op, address := a0 }] := rfl
@[simp] theorem reportUnknownOpcode_mem (op : Byte) (a0 : Word) (s : State) : (reportUnknownOpcode op a0 s).mem = s.mem := rfl

@[simp] theorem setFlagsZN_pc (s : State) : (setFlagsZN s).pc = s.pc := rfl
@[simp] theorem setFlagsZN_sp (s : State) : (setFlagsZN s).sp = s.sp := rfl
@[simp] theorem setFlagsZN_a (s : State) : (setFlagsZN s).a = s.a := rfl
@[simp] theorem setFlagsZN_x (s : State) : (setFlagsZN s).x = s.x := rfl
@[simp] theorem setFlagsZN_y (s : State) : (setFlagsZN s).y = s.y := rfl
@[simp] theorem setFlagsZN_flagC (s : State) : (setFlagsZN s).flagC = s.flagC := rfl
@[simp] theorem setFlagsZN_flagZ (s : State) : (setFlagsZN s).flagZ = zeroOf s.a := rfl
@[simp] theorem setFlagsZN_flagI (s : State) : (setFlagsZN s).flagI = s.flagI := rfl
@[simp] theorem setFlagsZN_flagD (s : State) : (setFlagsZN s).flagD = s.flagD := rfl
@[simp] theorem setFlagsZN_flagB (s : State) : (setFlagsZN s).flagB = s.flagB := rfl
@[simp] theorem setFlagsZN_flagV (s : State) : (setFlagsZN s).flagV = s.flagV := rfl
@[simp] theorem setFlagsZN_flagN (s : State) : (setFlagsZN s).flagN = negativeOf s.a := rfl
@[simp] theorem setFlagsZN_cyc (s : State) : (setFlagsZN s).cyc = s.cyc := rfl
@[simp] theorem setFlagsZN_diag (s : State) : (setFlagsZN s).diag = s.diag := rfl
@[simp] theorem setFlagsZN_mem (s : State) : (setFlagsZN s).mem = s.mem := rfl

@[simp] theorem setFlag_pc (g : Flag) (b : Bool) (s : State) : (setFlag g b s).pc = s.pc := by cases g <;> rfl
@[simp] theorem setFlag_sp (g : Flag) (b : Bool) (s : State) : (setFlag g b s).sp = s.sp := by cases g <;> rfl
@[simp] theorem setFlag_a (g : Flag) (b : Bool) (s : State) : (setFlag g b s).a = s.a := by cases g <;> rfl
@[simp] theorem setFlag_x (g : Flag) (b : Bool) (s : State) : (setFlag g b s).x = s.x := by cases g <;> rfl
@[simp] theorem setFlag_y (g : Flag) (b : Bool) (s : State) : (setFlag g b s).y = s.y := by cases g <;> rfl
@[simp] theorem setFlag_cyc (g : Flag) (b : Bool) (s : State) : (setFlag g b s).cyc = s.cyc := by cases g <;> rfl
@[simp] theorem setFlag_diag (g : Flag) (b : Bool) (s : State) : (setFlag g b s).diag = s.diag := by cases g <;> rfl
@[simp] theorem setFlag_mem (g : Flag) (b : Bool) (s : State) : (setFlag g b s).mem = s.mem := by cases g <;> rfl

@[simp] theorem getFlag_setFlag (f g : Flag) (b : Bool) (s : State) :
    getFlag f (setFlag g b s) = if f = g then b else getFlag f s := by
  cases f <;> cases g <;> rfl

/-- Reading memory after an update that is no store. -/
@[simp] theorem memRead_charge (k : Nat) (s : State) (addr : Word) : memRead (charge k s) addr = memRead s addr := rfl
@[simp] theorem memRead_setPc (v : Word) (s : State) (addr : Word) : memRead (setPc v s) addr = memRead s addr := rfl
@[simp] theorem memRead_setSp (v : Word) (s : State) (addr : Word) : memRead (setSp v s) addr = memRead s addr := rfl
@[simp] theorem memRead_setA (v : Byte) (s : State) (addr : Word) : memRead (setA v s) addr = memRead s addr := rfl
@[simp] theorem memRead_setFlagsZN (s : State) (addr : Word) : memRead (setFlagsZN s) addr = memRead s addr := rfl
@[simp] theorem memRead_reportUnknownOpcode (op : Byte) (a0 : Word) (s : State) (addr : Word) :
    memRead (reportUnknownOpcode op a0 s) addr = memRead s addr := rfl

/-- Two states with the same fields are the same state. -/
theorem State.ext_fields {s t : State} (hpc : s.pc = t.pc) (hsp : s.sp = t.sp) (ha : s.a = t.a) (hx : s.x = t.x)
    (hy : s.y = t.y) (hc : s.flagC = t.flagC) (hz : s.flagZ = t.flagZ) (hi : s.flagI = t.flagI)
    (hd : s.flagD = t.flagD) (hb : s.flagB = t.flagB) (hv : s.flagV = t.flagV) (hn : s.flagN = t.flagN)
    (hcyc : s.cyc = t.cyc) (hdiag : s.diag = t.diag) (hmem : s.mem = t.mem) : s = t := by
  cases s; cases t; simp_all

end Sys2Proof.Machine
end

