-- ==== Sys2Proof/Laws/Memory.lean ====
section
/-! SUPPORT. The laws of the AddressSpace: what is read after a write, and that a write keeps the canonical form. -/

namespace Sys2Proof.Machine

theorem Memory.read_of_absent {m : Memory} {a : Nat} (h : ∀ c ∈ m, c.1 ≠ a) : m.read a = Memory.unlisted := by
  induction m with
  | nil => rfl
  | cons c m ih =>
    rw [Memory.read, if_neg (h c (by simp))]
    exact ih fun d hd => h d (by simp [hd])

theorem Memory.absent_without (m : Memory) (a : Nat) : ∀ c ∈ m.without a, c.1 ≠ a := by
  intro c hc
  simpa using (List.mem_filter.mp hc).2

theorem Memory.read_without_other (m : Memory) {a b : Nat} (h : a ≠ b) : (m.without a).read b = m.read b := by
  induction m with
  | nil => rfl
  | cons c m ih =>
    by_cases hc : c.1 = a
    · have : Memory.without (c :: m) a = Memory.without m a := by simp [Memory.without, hc]
      rw [this, ih, Memory.read, if_neg (hc ▸ h)]
    · have : Memory.without (c :: m) a = c :: Memory.without m a := by simp [Memory.without, hc]
      rw [this, Memory.read, ih, Memory.read]

theorem Memory.read_place_same {m : Memory} {a : Nat} (v : Byte) (h : ∀ c ∈ m, c.1 ≠ a) :
    (m.place (a, v)).read a = v := by
  induction m with
  | nil => simp [Memory.place, Memory.read]
  | cons c m ih =>
    rw [Memory.place]
    split
    · simp [Memory.read]
    · rw [Memory.read, if_neg (h c (by simp))]
      exact ih fun d hd => h d (by simp [hd])

theorem Memory.read_place_other (m : Memory) {a b : Nat} (v : Byte) (h : a ≠ b) :
    (m.place (a, v)).read b = m.read b := by
  induction m with
  | nil => simp [Memory.place, Memory.read, h]
  | cons c m ih =>
    rw [Memory.place]
    split
    · rw [Memory.read, if_neg h]
    · rw [Memory.read, ih, Memory.read]

/-- Reading after a write, in any memory. -/
theorem Memory.read_write (m : Memory) (a b : Nat) (v : Byte) :
    (m.write a v).read b = if a = b then v else m.read b := by
  unfold Memory.write
  split
  case isTrue hv =>
    split
    case isTrue h => rw [← h, Memory.read_of_absent (m.absent_without a), hv]
    case isFalse h => exact m.read_without_other h
  case isFalse =>
    split
    case isTrue h => rw [← h]; exact Memory.read_place_same v (m.absent_without a)
    case isFalse h => rw [Memory.read_place_other _ v h, m.read_without_other h]

theorem Memory.mem_place {m : Memory} {c d : Host.Cell} : d ∈ m.place c ↔ d = c ∨ d ∈ m := by
  induction m with
  | nil => simp [Memory.place]
  | cons e m ih =>
    rw [Memory.place]
    split
    · simp
    · simp [ih]; tauto

theorem Memory.Wf.without {m : Memory} (h : m.Wf) (a : Nat) : (m.without a).Wf :=
  ⟨h.1.filter _, fun c hc => h.2 c (List.mem_of_mem_filter hc)⟩

theorem Memory.Wf.place {m : Memory} {a : Nat} {v : Byte} (h : m.Wf) (ha : a < 65536) (hv : v ≠ Memory.unlisted)
    (habs : ∀ c ∈ m, c.1 ≠ a) : (m.place (a, v)).Wf := by
  refine ⟨?_, fun c hc => ?_⟩
  · induction m with
    | nil => simp [Memory.place]
    | cons e m ih =>
      have hp := List.pairwise_cons.mp h.1
      rw [Memory.place]
      split
      case isTrue hlt =>
        refine List.pairwise_cons.mpr ⟨fun d hd => ?_, h.1⟩
        rcases List.mem_cons.mp hd with rfl | hd
        · exact hlt
        · exact Nat.lt_trans hlt (hp.1 d hd)
      case isFalse hlt =>
        refine List.pairwise_cons.mpr ⟨fun d hd => ?_, ih ⟨hp.2, fun c hc => h.2 c (by simp [hc])⟩
          fun c hc => habs c (by simp [hc])⟩
        rcases Memory.mem_place.mp hd with rfl | hd
        · exact Nat.lt_of_le_of_ne (Nat.not_lt.mp hlt) (habs e (by simp))
        · exact hp.1 d hd
  · rcases Memory.mem_place.mp hc with rfl | hc
    · exact ⟨ha, hv⟩
    · exact h.2 c hc

/-- A write within the address space keeps the canonical form. -/
theorem Memory.Wf.write {m : Memory} (h : m.Wf) {a : Nat} (ha : a < 65536) (v : Byte) : (m.write a v).Wf := by
  unfold Memory.write
  split
  · exact h.without a
  · exact (h.without a).place ha ‹_› (m.absent_without a)

theorem Memory.wf_zeroed : Memory.zeroed.Wf := by decide

/-- A store at a word address keeps the canonical form. -/
theorem memWrite_wf {s : State} (h : s.mem.Wf) (addr : Word) (v : Byte) : (memWrite addr v s).mem.Wf :=
  h.write addr.isLt v

/-- The byte read after a store, by machine addresses. -/
theorem memRead_memWrite (s : State) (addr b : Word) (v : Byte) :
    memRead (memWrite addr v s) b = if addr = b then v else memRead s b := by
  rw [memRead, memWrite_mem, Memory.read_write]
  exact if_congr BitVec.toNat_inj rfl rfl

/-- Storing bytes keeps the canonical form. -/
theorem storeBytes_wf {s : State} (h : s.mem.Wf) (addr : Word) (bs : List Byte) : (storeBytes addr bs s).mem.Wf := by
  induction bs generalizing addr s with
  | nil => exact h
  | cons v bs ih => exact ih (memWrite_wf h addr v) (addr + 1)

end Sys2Proof.Machine
end

