-- ==== Sys2Proof/Laws/Ops.lean ====
section
/-! SUPPORT. One lemma per byte-order helper, per composite store and per shared body of a meaning. -/

namespace Sys2Proof

theorem lowByte_toNat (w : Word) : (lowByte w).toNat = w.toNat % 256 := by
  simp [lowByte, BitVec.extractLsb'_toNat]

theorem highByte_toNat (w : Word) : (highByte w).toNat = w.toNat / 256 := by
  have := w.isLt
  simp [highByte, BitVec.extractLsb'_toNat, Nat.shiftRight_eq_div_pow]
  omega

theorem wordOf_toNat (hi lo : Byte) : (wordOf hi lo).toNat = hi.toNat * 256 + lo.toNat := by
  have := lo.isLt
  rw [wordOf, BitVec.toNat_append, ← Nat.shiftLeft_add_eq_or_of_lt this, Nat.shiftLeft_eq]

theorem lowByte_wordOf (hi lo : Byte) : lowByte (wordOf hi lo) = lo := by
  apply BitVec.eq_of_toNat_eq
  rw [lowByte_toNat, wordOf_toNat]
  have := lo.isLt
  omega

theorem highByte_wordOf (hi lo : Byte) : highByte (wordOf hi lo) = hi := by
  apply BitVec.eq_of_toNat_eq
  rw [highByte_toNat, wordOf_toNat]
  have := lo.isLt
  omega

theorem wordOf_bytes (w : Word) : wordOf (highByte w) (lowByte w) = w := by
  apply BitVec.eq_of_toNat_eq
  rw [wordOf_toNat, lowByte_toNat, highByte_toNat]
  omega

theorem zext16_toNat (b : Byte) : (zext16 b).toNat = b.toNat := by
  have := b.isLt
  rw [zext16, BitVec.toNat_setWidth]
  omega

end Sys2Proof

namespace Sys2Proof.Machine

/-- The two addresses of a word access are distinct (rule R45). -/
theorem succ_ne (w : Word) : w + 1 ≠ w := by
  simp

/-- Everything `WriteWord` changes: its two bytes and `cyc`. -/
theorem writeWord_eq (addr v : Word) (s : State) :
    writeWord addr v s =
      { s with
        cyc := s.cyc - 2
        mem := (s.mem.write addr.toNat (lowByte v)).write (addr + 1).toNat (highByte v) } := rfl

theorem writeWord_wf {s : State} (h : s.mem.Wf) (addr v : Word) : (writeWord addr v s).mem.Wf :=
  memWrite_wf (s := memWrite addr (lowByte v) s) (memWrite_wf h addr (lowByte v)) (addr + 1) (highByte v)

/-- Everything the body shared by the loads changes: `A`, `Z` and `N`. -/
theorem loadA_eq (v : Byte) (s : State) :
    loadA v s = { s with a := v, flagZ := zeroOf v, flagN := negativeOf v } := rfl

/-- Everything a push changes: `SP`, its two bytes and `cyc`. -/
theorem pushWord_eq (v : Word) (s : State) :
    pushWord v s =
      { s with
        sp := s.sp + 2
        cyc := s.cyc - 2
        mem := (s.mem.write s.sp.toNat (lowByte v)).write (s.sp + 1).toNat (highByte v) } := rfl

/-- Everything the body of JSR changes, at any charge for `PC - 1`. -/
theorem jsrCosting_eq (cost : Nat) (target : Word) (s : State) :
    jsrCosting cost target s =
      { s with
        pc := target
        sp := s.sp + 2
        cyc := s.cyc - cost - 2 - 1
        mem := (s.mem.write s.sp.toNat (lowByte (s.pc - 1))).write (s.sp + 1).toNat (highByte (s.pc - 1)) } := by
  simp only [jsrCosting, subWordCosting, pushWord_eq, charge, setPc, absolute, Nat.cast_one]

end Sys2Proof.Machine
end

