-- ==== Sys2Proof/Laws/Fetch.lean ====
section
/-! SUPPORT. The opcode map inverted, and what `fetch` answers for each opcode byte. -/

namespace Sys2Proof

theorem Opcode.ofByte_byte (o : Opcode) : Opcode.ofByte o.byte = some o := by
  cases o <;> decide

/-- The map knows exactly the bytes of the four entries. -/
theorem Opcode.ofByte_eq_some {op : Byte} {o : Opcode} : Opcode.ofByte op = some o ↔ op = o.byte := by
  refine ⟨fun h => ?_, fun h => h ▸ o.ofByte_byte⟩
  unfold Opcode.ofByte at h
  split at h
  · cases h; assumption
  split at h
  · cases h; assumption
  split at h
  · cases h; assumption
  split at h
  · cases h; assumption
  · cases h

theorem Opcode.ofByte_eq_none {op : Byte} :
    Opcode.ofByte op = none ↔ op ≠ 0xA9 ∧ op ≠ 0xA5 ∧ op ≠ 0xB5 ∧ op ≠ 0x20 := by
  unfold Opcode.ofByte
  refine ⟨fun h => ?_, fun ⟨h1, h2, h3, h4⟩ => by rw [if_neg h1, if_neg h2, if_neg h3, if_neg h4]⟩
  refine ⟨?_, ?_, ?_, ?_⟩ <;> (rintro rfl; revert h; decide)

end Sys2Proof

namespace Sys2Proof.Machine

/-- A fetch that begins with an unknown opcode takes that byte alone. -/
theorem fetch_of_unknown {s : State} (h : Opcode.ofByte (memRead s s.pc) = none) :
    fetch s = (.unknownOpcode (memRead s s.pc), charge 1 (setPc (s.pc + 1) s)) := by
  simp [fetch, fetchByte, formatOf, decode, h]

/-- A fetch of an entry of format OP_B takes one operand byte. -/
theorem fetch_of_opB {s : State} {o : Opcode} (h : memRead s s.pc = o.byte) (hf : o.format = .opB) :
    fetch s = (.instr (o.withOperands (memRead s (s.pc + 1)) 0),
      charge 1 (setPc (s.pc + 1 + 1) (charge 1 (setPc (s.pc + 1) s)))) := by
  simp [fetch, fetchByte, formatOf, decode, h, o.ofByte_byte, hf]

/-- A fetch of an entry of format OP_W takes the operand word. -/
theorem fetch_of_opW {s : State} {o : Opcode} (h : memRead s s.pc = o.byte) (hf : o.format = .opW) :
    fetch s = (.instr (o.withOperands (memRead s (s.pc + 1)) (memRead s (s.pc + 1 + 1))),
      charge 2 (setPc (s.pc + 1 + 2) (charge 1 (setPc (s.pc + 1) s)))) := by
  simp [fetch, fetchByte, fetchWord, formatOf, decode, h, o.ofByte_byte, hf, lowByte_wordOf, highByte_wordOf]

end Sys2Proof.Machine
end

