-- ==== Sys2Proof/Laws/PerInstr.lean ====
section
/-! SUPPORT. Statements made of every instruction, one lemma per constructor. -/

namespace Sys2Proof.Laws.EncodedForm

/-- The encoding of an instruction begins with its entry's opcode byte and has the length of its format (rule R70). -/
def Statement (i : Instr) : Prop :=
  (encode i).head? = some i.opcode.byte ∧ (encode i).length = i.opcode.format.length

theorem ldaImm (nn : Byte) : Statement (.ldaImm nn) := ⟨rfl, rfl⟩

theorem ldaZp (nn : Byte) : Statement (.ldaZp nn) := ⟨rfl, rfl⟩

theorem ldaZpX (nn : Byte) : Statement (.ldaZpX nn) := ⟨rfl, rfl⟩

theorem jsrAbs (target : Word) : Statement (.jsrAbs target) := ⟨rfl, rfl⟩

end Sys2Proof.Laws.EncodedForm
end

