-- ==== Sys2Proof/Tests/Slice0.lean ====
section
/-! SUPPORT. Checks of the model against spec/95_test_vectors.md and Table OPC, and one witness for the hypotheses of each
statement that has some. Expected values are the spec's, named by their vector. -/

namespace Sys2Proof.Tests

open Sys2Proof.Machine

/-- The state after reset with bytes stored at `pc` and `PC` there, as a host would load it (R156). -/
def loaded (pc : Word) (bytes : List Byte) : State := storeBytes pc bytes { State.reset with pc := pc }

/-- One field of the state after a step. -/
def after {α : Type} (field : State → α) (s : State) : Option α := (nextState (step s)).map field

-- ---- well-formedness: an instruction has no check to fail (log entry 12); the memory's canonical form has four ----

theorem test_every_instruction_is_well_formed :
    Instr.wellFormed (.ldaImm 0xFF) ∧ Instr.wellFormed (.ldaZp 0xFF) ∧ Instr.wellFormed (.ldaZpX 0xFF) ∧
      Instr.wellFormed (.jsrAbs 0xFFFF) := by decide

theorem test_memory_out_of_order_is_ill_formed : ¬Memory.Wf [(2, 1), (1, 1)] := by decide
theorem test_memory_with_repeat_is_ill_formed : ¬Memory.Wf [(1, 1), (1, 2)] := by decide
theorem test_memory_listing_zero_is_ill_formed : ¬Memory.Wf [(1, 0)] := by decide
theorem test_memory_beyond_the_top_is_ill_formed : ¬Memory.Wf [(65536, 1)] := by decide

-- ---- decoding: words written from Table OPC, bit by bit ----

theorem test_decode_ldaImm : decode 0b10101001 0b01000010 0 = .instr (.ldaImm 0x42) := by decide
theorem test_decode_ldaZp : decode 0b10100101 0b00010000 0 = .instr (.ldaZp 0x10) := by decide
theorem test_decode_ldaZpX : decode 0b10110101 0b11111111 0 = .instr (.ldaZpX 0xFF) := by decide
theorem test_decode_jsrAbs : decode 0b00100000 0b01000010 0b01101001 = .instr (.jsrAbs 0x6942) := by decide

/-- V-UNK-3: the neighbours of the defined opcodes are unknown. -/
theorem test_decode_neighbours :
    ∀ op ∈ [0x1F, 0x21, 0xA4, 0xA6, 0xA8, 0xAA, 0xB4, 0xB6, 0x00, (0xFF : Byte)], decode op 1 2 = .unknownOpcode op := by
  decide

/-- V-UNK-2: an unknown opcode takes one byte of a stream. -/
theorem test_stream_after_unknown :
    decodeBytes [0xAD, 0xA9, 0x42] = .item (.unknownOpcode 0xAD) [0xA9, 0x42] ∧
      decodeBytes [0xA9, 0x42] = .item (.instr (.ldaImm 0x42)) [] ∧ decodeBytes [0x20, 0x42] = .truncated := by
  decide

theorem test_decodeTableWord :
    decodeTableWord 16 0x42A9 = some (.ldaImm 0x42) ∧ decodeTableWord 24 0x694220 = some (.jsrAbs 0x6942) ∧
      decodeTableWord 8 0xFFFF20 = some (.jsrAbs 0) ∧ decodeTableWord 8 0xEA = none := by
  decide

/-- S7 through `withFetchWord`: the JSR runs as the first instruction after reset. -/
theorem test_withFetchWord : after State.pc (State.reset.withFetchWord 24 0x694220) = some 0x6942 := by decide

-- ---- one step of each instruction ----

/-- V-IMM-6: stale `Z` and `N` are cleared, the other flags kept. -/
theorem test_ldaImm_clears_stale_flags :
    after (fun t => (t.a, t.flagC, t.flagZ, t.flagN, t.pc))
      { loaded 0xFFFC [0xA9, 0x01] with
        a := 0xEE, flagC := true, flagZ := true, flagI := true, flagD := true, flagB := true, flagV := true
        flagN := true } = some (0x01, true, false, false, 0xFFFE) := by decide

/-- V-IMM-8: the instruction straddles the top of memory. -/
theorem test_ldaImm_straddles : after (fun t => (t.a, t.pc, t.cyc)) (loaded 0xFFFF [0xA9, 0x55]) = some (0x55, 0x0001, -2) := by
  decide

/-- V-ZP-2: the top of the zero page, not the byte a page up. -/
theorem test_ldaZp_top :
    after (fun t => (t.a, t.flagN, t.pc, t.cyc)) (memWrite 0x01FF 0xEE (memWrite 0x00FF 0x7F (loaded 0x0200 [0xA5, 0xFF]))) =
      some (0x7F, false, 0x0202, -3) := by decide

/-- V-ZP-3: it loads its own opcode. -/
theorem test_ldaZp_self : after (fun t => (t.a, t.flagN)) (loaded 0x0000 [0xA5, 0x00]) = some (0xA5, true) := by decide

/-- V-ZPX-5 with its decoy a page up: the sum wraps in the zero page, and `C` stays. -/
theorem test_ldaZpX_wraps :
    after (fun t => (t.a, t.flagC, t.cyc))
      (memWrite 0x01FE 0x11 (memWrite 0x00FE 0xC3 { loaded 0x0200 [0xB5, 0xFF] with x := 0xFF })) =
      some (0xC3, false, -4) := by decide

/-- S5. -/
theorem test_ldaZpX_source_example :
    after State.a (memWrite 0x0000 0x37 { loaded 0xFFFC [0xB5, 0xFF] with x := 0x01 }) = some 0x37 := by decide

/-- V-JSR-7: the push lands on the instruction's own operand, and the target is the word fetched before. -/
theorem test_jsrAbs_over_itself :
    after (fun t => (t.pc, t.sp, memRead t 0x1235, memRead t 0x1236)) { loaded 0x1234 [0x20, 0x00, 0x03] with sp := 0x1235 } =
      some (0x0300, 0x1237, 0x36, 0x12) := by decide

/-- V-JSR-4 and V-JSR-5 in one: the instruction and the push both wrap. Both costs of D3 are checked. -/
theorem test_jsrAbs_wraps_at_both_costs :
    after (fun t => (t.pc, t.sp, memRead t 0xFFFF, memRead t 0x0000)) { loaded 0xFFFF [0x20, 0x00, 0x03] with sp := 0xFFFF } =
        some (0x0300, 0x0001, 0x01, 0x00) ∧
      (jsrCosting JsrSubCost.charged.units 0x0300 State.reset).cyc = -4 ∧
      (jsrCosting JsrSubCost.free.units 0x0300 State.reset).cyc = -3 := by decide

/-- V-UNK-1: the record carries the opcode's own address. -/
theorem test_unknownOpcode_record :
    after (fun t => (t.pc, t.diag, t.cyc)) (loaded 0xFFFC [0xEA]) = some (0xFFFD, [⟨0xEA, 0xFFFC⟩], -1) := by decide

-- ---- the sequencer ----

/-- V-IMM-7: the last instruction completes past the budget. -/
theorem test_execute_overshoots :
    (nextState (execute 1 (loaded 0xFFFC [0xA9, 0x42]))).map (fun t => (t.a, t.pc, t.cyc)) = some (0x42, 0xFFFE, -1) := by
  decide

/-- S8. -/
theorem test_execute_goes_on_after_unknown :
    (nextState (execute 3 State.reset)).map (fun t => (t.pc, t.cyc, t.diag)) =
      some (0xFFFF, 0, [⟨0x00, 0xFFFC⟩, ⟨0x00, 0xFFFD⟩, ⟨0x00, 0xFFFE⟩]) := by decide

/-- V-ALU-11. -/
theorem test_writeWord_at_the_top :
    memRead (writeWord 0xFFFF 0xABCD State.reset) 0xFFFF = 0xCD ∧ memRead (writeWord 0xFFFF 0xABCD State.reset) 0 = 0xAB := by
  decide

-- ---- witnesses: a concrete state and operands that meet the hypotheses of each statement that has some ----

theorem witness_StoringZeroEverywhereGivesResetMemory : Memory.Wf [(0, 1), (65535, 0xFF)] := by decide

theorem witness_NothingButResetBeforeReset : Transaction.observe ≠ .reset := by decide

theorem witness_HostWriteSetsOneElement :
    (0xFFFF : Word) ≠ 0x0000 ∧ Flag.c ≠ Flag.n ∧ hostWrite (.mem 0xFFFF 1) State.reset ≠ State.reset := by decide

theorem witness_EveryTransactionKeepsTheInvariant :
    (Boundary.ready State.reset).Inv ∧
      transact (.hostWrite (.mem 0xFFFF 1)) (.ready State.reset) =
        .next (.ready (memWrite 0xFFFF 1 State.reset), none) :=
  ⟨Memory.wf_zeroed, rfl⟩

theorem witness_CanonicalMemoriesThatReadAlikeAreEqual :
    Memory.Wf [(65535, 1)] ∧ ∀ addr : Word, Memory.read [(65535, 1)] addr.toNat = Memory.read [(65535, 1)] addr.toNat :=
  ⟨by decide, fun _ => rfl⟩

theorem witness_WriteWordStoresLittleEndian : (0x0001 : Word) ≠ 0xFFFF ∧ (0x0001 : Word) ≠ 0xFFFF + 1 := by decide

theorem witness_DecoderReadsExactlyTheEncodings :
    Instr.wellFormed (.jsrAbs 0xFFFF) = true ∧
      decodeBytes [0x20, 0xFF, 0xFF, 0x00] = .item (.instr (.jsrAbs 0xFFFF)) [0x00] := by decide

theorem witness_OpcodeDecidesTheLength :
    memRead (loaded 0xFFFC [0xA9]) (loaded 0xFFFC [0xA9]).pc ≠ 0x20 ∧ memRead State.reset State.reset.pc ≠ 0x20 := by decide

theorem witness_StepRunsTheDecodedInstruction :
    let s := loaded 0xFFFF [0x20, 0x42, 0x69]
    decode (memRead s s.pc) (memRead s (s.pc + 1)) (memRead s (s.pc + 2)) = .instr (.jsrAbs 0x6942) := by decide

theorem witness_AnEncodedInstructionStoredAtPcRuns : Instr.wellFormed (.ldaZpX 0x00) = true := by decide

theorem witness_UnknownOpcodeIsRecordedAndSkipped :
    let s := State.reset
    memRead s s.pc ≠ 0xA9 ∧ memRead s s.pc ≠ 0xA5 ∧ memRead s s.pc ≠ 0xB5 ∧ memRead s s.pc ≠ 0x20 := by decide

theorem witness_OnlyJsrMovesSpOrStores :
    memRead State.reset State.reset.pc ≠ 0x20 ∧
      let s := { loaded 0xFFFF [0x20] with sp := 0xFFFF }
      memRead s s.pc = 0x20 ∧ (0x0001 : Word) ≠ pushAddress s ∧ (0x0001 : Word) ≠ pushAddress s + 1 := by decide

theorem witness_ZAndNAreWrittenByLdaOnlyAndReadByNone :
    (∀ op ∈ [0xA9, 0xA5, (0xB5 : Byte)], memRead (loaded 0xFFFF [op]) 0xFFFF = op) ∧
      ∀ op ∈ [0x20, (0xEA : Byte)], memRead (loaded 0xFFFF [op]) 0xFFFF ≠ 0xA9 ∧
        memRead (loaded 0xFFFF [op]) 0xFFFF ≠ 0xA5 ∧ memRead (loaded 0xFFFF [op]) 0xFFFF ≠ 0xB5 := by decide

theorem witness_StepKeepsZAndNExclusive : ¬(State.reset.flagZ = true ∧ State.reset.flagN = true) := by decide

theorem witness_EveryStepKeepsTheInvariant :
    State.Inv State.reset ∧
      step State.reset =
        .next { State.reset with pc := 0xFFFD, cyc := -1, diag := [⟨0x00, 0xFFFC⟩] } :=
  ⟨Memory.wf_zeroed, rfl⟩

theorem witness_FlagsFollowTheAccumulatorAfterEveryLda :
    Instr.ldaZpX 0xFF = .ldaImm 0xFF ∨ Instr.ldaZpX 0xFF = .ldaZp 0xFF ∨ Instr.ldaZpX 0xFF = .ldaZpX 0xFF := by decide

theorem witness_LdaImmediateLoadsItsLiteral :
    let s := loaded 0xFFFF [0xA9, 0x80]
    memRead s s.pc = 0xA9 ∧ memRead s (s.pc + 1) = 0x80 := by decide

theorem witness_LdaZeroPageLoadsTheAddressedByte :
    let s := memWrite 0x00FF 0x80 (loaded 0x0200 [0xA5, 0xFF])
    memRead s s.pc = 0xA5 ∧ memRead s (s.pc + 1) = 0xFF ∧ memRead s (BitVec.ofNat 16 (0xFF : Byte).toNat) = 0x80 := by
  decide

theorem witness_LdaZeroPageXWrapsWithinTheZeroPage :
    let s := memWrite 0x0000 0x37 { loaded 0xFFFC [0xB5, 0xFF] with x := 0x01 }
    memRead s s.pc = 0xB5 ∧ memRead s (s.pc + 1) = 0xFF ∧
      memRead s (BitVec.ofNat 16 (((0xFF : Byte).toNat + s.x.toNat) % 256)) = 0x37 := by decide

theorem witness_LoadsChangeOnlyAAndZN :
    exec (.ldaImm 0x00) State.reset = .next { State.reset with flagZ := true } := rfl

theorem witness_JsrChangesOnlyPcSpAndThePushedBytes :
    (exec (.jsrAbs 0x0300) State.reset = .next (jsrCosting Config.cJsrSub 0x0300 State.reset)) ∧
      (0x0102 : Word) ≠ pushAddress State.reset ∧ (0x0102 : Word) ≠ pushAddress State.reset + 1 :=
  ⟨rfl, by decide, by decide⟩

theorem witness_JsrStepCallsTheTargetItFetched :
    let s := { loaded 0xFFFF [0x20, 0x42, 0x69] with sp := 0xFFFE }
    memRead s s.pc = 0x20 ∧ (0x0000 : Word) ≠ s.sp ∧ (0x0000 : Word) ≠ s.sp + 1 := by decide

theorem witness_SmallBudgetRunsExactlyOneInstruction :
    1 ≤ 4 ∧ 4 ≤ cost (fetch (loaded 0xFFFC [0xB5, 0x00])).1 ∧ 1 ≤ cost (fetch State.reset).1 := by decide

theorem witness_ExecuteForgetsTheOldCounter :
    observe State.reset = observe { State.reset with cyc := -6 } ∧ State.reset ≠ { State.reset with cyc := -6 } := by decide

theorem witness_BudgetsAddWhenNothingIsOvershot :
    execute 1 State.reset = .next { State.reset with pc := 0xFFFD, cyc := 0, diag := [⟨0x00, 0xFFFC⟩] } := rfl

end Sys2Proof.Tests
end

section
/-! One step of the machine, opcode by opcode: the equation of a step for each table entry and for an unknown opcode, and
what every LDA has in common. -/

namespace Sys2Proof.Machine

/-- What the fetch of an entry of format OP_B answers: its operand byte, two bytes passed and paid for. -/
theorem fetch_eq_of_opB {s : State} {o : Opcode} (h : memRead s s.pc = o.byte) (hf : o.format = .opB) :
    fetch s =
      (.instr (o.withOperands (memRead s (s.pc + 1)) 0), { s with pc := s.pc + 2, cyc := s.cyc - 2 }) := by
  rw [fetch_of_opB h hf]
  simp [charge, setPc, BitVec.add_assoc, Int.sub_sub]

/-- What the fetch of an entry of format OP_W answers: its operand word, three bytes passed and paid for. -/
theorem fetch_eq_of_opW {s : State} {o : Opcode} (h : memRead s s.pc = o.byte) (hf : o.format = .opW) :
    fetch s =
      (.instr (o.withOperands (memRead s (s.pc + 1)) (memRead s (s.pc + 2))),
        { s with pc := s.pc + 3, cyc := s.cyc - 3 }) := by
  rw [fetch_of_opW h hf]
  simp [charge, setPc, BitVec.add_assoc, Int.sub_sub]

/-- What LDA zero page does after its fetches (R111). -/
theorem execLdaZp_eq (nn : Byte) (s : State) :
    execLdaZp nn s = .next (loadA (memRead s (zeroPage nn)) { s with cyc := s.cyc - 1 }) := rfl

/-- What LDA zero page,X does after its fetches (R112): one unit for the sum, one for the read. -/
theorem execLdaZpX_eq (nn : Byte) (s : State) :
    execLdaZpX nn s = .next (loadA (memRead s (zext16 (nn + s.x))) { s with cyc := s.cyc - 1 - 1 }) := rfl

/-- The step of `LDA #$nn` (R110). -/
theorem step_of_ldaImm {s : State} (h : memRead s s.pc = 0xA9) :
    step s = .next (loadA (memRead s (s.pc + 1)) { s with pc := s.pc + 2, cyc := s.cyc - 2 }) := by
  rw [step, fetch_eq_of_opB (o := .ldaImm) h rfl]
  rfl

/-- The step of `LDA $nn` (R111). -/
theorem step_of_ldaZp {s : State} (h : memRead s s.pc = 0xA5) :
    step s =
      .next (loadA (memRead s (zeroPage (memRead s (s.pc + 1)))) { s with pc := s.pc + 2, cyc := s.cyc - 3 }) := by
  rw [step, fetch_eq_of_opB (o := .ldaZp) h rfl]
  simp [Opcode.withOperands, exec, execLdaZp_eq, memRead, Int.sub_sub]

/-- The step of `LDA $nn,X` (R112): the indexed address wraps within the zero page. -/
theorem step_of_ldaZpX {s : State} (h : memRead s s.pc = 0xB5) :
    step s =
      .next (loadA (memRead s (zext16 (memRead s (s.pc + 1) + s.x))) { s with pc := s.pc + 2, cyc := s.cyc - 4 }) := by
  rw [step, fetch_eq_of_opB (o := .ldaZpX) h rfl]
  simp [Opcode.withOperands, exec, execLdaZpX_eq, memRead, Int.sub_sub]

/-- The step of `JSR $hhll` (R120), its body being `jsrCosting`. -/
theorem step_of_jsrAbs {s : State} (h : memRead s s.pc = 0x20) :
    step s =
      .next (jsrCosting Config.cJsrSub (wordOf (memRead s (s.pc + 2)) (memRead s (s.pc + 1)))
        { s with pc := s.pc + 3, cyc := s.cyc - 3 }) := by
  rw [step, fetch_eq_of_opW (o := .jsrAbs) h rfl]
  rfl

/-- The step of an unknown opcode (R131). -/
theorem step_of_unknown {s : State} (h : Opcode.ofByte (memRead s s.pc) = none) :
    step s =
      .next (reportUnknownOpcode (memRead s s.pc) s.pc { s with pc := s.pc + 1, cyc := s.cyc - 1 }) := by
  rw [step, fetch_of_unknown h]
  rfl

/-- The opcode byte is one of the three of the load family (Table OPC). -/
def IsLdaOpcode (op : Byte) : Prop := op = 0xA9 ∨ op = 0xA5 ∨ op = 0xB5

/-- Every LDA ends in the shared load body, run on a state in which only `PC` and `cyc` have moved. -/
theorem step_of_lda {s : State} (h : IsLdaOpcode (memRead s s.pc)) :
    ∃ (v : Byte) (c : Int), step s = .next (loadA v { s with pc := s.pc + 2, cyc := c }) := by
  obtain himm | hzp | hzpx := h
  · exact ⟨_, _, step_of_ldaImm himm⟩
  · exact ⟨_, _, step_of_ldaZp hzp⟩
  · exact ⟨_, _, step_of_ldaZpX hzpx⟩

/-- The opcode byte at `PC` is an LDA's, JSR's or unknown (R98). -/
theorem opcode_cases (op : Byte) : IsLdaOpcode op ∨ op = 0x20 ∨ Opcode.ofByte op = none := by
  rw [Opcode.ofByte_eq_none, IsLdaOpcode]
  tauto

/-- Every byte at `PC` has a next state (R130, R135, R144). -/
theorem step_total (s : State) : ∃ t : State, step s = .next t := by
  obtain hlda | hjsr | hunknown := opcode_cases (memRead s s.pc)
  · obtain ⟨v, c, hs⟩ := step_of_lda hlda
    exact ⟨_, hs⟩
  · exact ⟨_, step_of_jsrAbs hjsr⟩
  · exact ⟨_, step_of_unknown hunknown⟩

end Sys2Proof.Machine
end

section
/-! The flags `Z` and `N` (R20, R25): who writes them, and that no step reads them. -/

namespace Sys2Proof.Machine

/-- `Z` of a byte is set exactly at 0x00 (R20). -/
@[simp] theorem zeroOf_eq_true_iff (v : Byte) : zeroOf v = true ↔ v = 0 := by
  simp [zeroOf]

/-- An LDA writes both flags from the accumulator it leaves (R113). -/
theorem step_lda_writes_ZN {s t : State} (hs : step s = .next t) (h : IsLdaOpcode (memRead s s.pc)) :
    t.flagZ = zeroOf t.a ∧ t.flagN = negativeOf t.a := by
  obtain ⟨v, c, hv⟩ := step_of_lda h
  cases hs.symm.trans hv
  exact ⟨rfl, rfl⟩

/-- JSR and an unknown opcode keep both flags. -/
theorem step_keeps_ZN_of_not_lda {s t : State} (hs : step s = .next t) (h : ¬ IsLdaOpcode (memRead s s.pc)) :
    t.flagZ = s.flagZ ∧ t.flagN = s.flagN := by
  obtain hl | hj | hu := opcode_cases (memRead s s.pc)
  · exact absurd hl h
  · cases hs.symm.trans (step_of_jsrAbs hj)
    simp [jsrCosting_eq]
  · cases hs.symm.trans (step_of_unknown hu)
    simp

/-- The state with other values of `Z` and `N`. -/
def State.withZN (z n : Bool) (s : State) : State := { s with flagZ := z, flagN := n }

/-- The fetch reads neither flag, and carries both along. -/
theorem fetch_withZN (z n : Bool) (s : State) :
    fetch (s.withZN z n) = ((fetch s).1, (fetch s).2.withZN z n) := by
  have hbyte (u : State) : fetchByte (u.withZN z n) = ((fetchByte u).1, (fetchByte u).2.withZN z n) := rfl
  have hword (u : State) : fetchWord (u.withZN z n) = ((fetchWord u).1, (fetchWord u).2.withZN z n) := rfl
  simp only [fetch, hbyte, hword]
  split <;> rfl

/-- Two outcomes are next states that agree on everything but `Z` and `N`. -/
def SameUpToZN (o o' : Host.Outcome State Fault Refusal) : Prop :=
  ∃ t t' : State, o = .next t ∧ o' = .next t' ∧ t'.withZN t.flagZ t.flagN = t

/-- No handler reads either flag: a load overwrites both, JSR carries both along. -/
theorem exec_withZN (i : Instr) (z n : Bool) (s : State) : SameUpToZN (exec i s) (exec i (s.withZN z n)) := by
  cases i with
  | ldaImm nn => exact ⟨_, _, rfl, rfl, rfl⟩
  | ldaZp nn => exact ⟨_, _, rfl, rfl, rfl⟩
  | ldaZpX nn => exact ⟨_, _, rfl, rfl, rfl⟩
  | jsrAbs target => exact ⟨_, _, rfl, rfl, rfl⟩

/-- No step reads either flag (R20, R25). -/
theorem step_withZN (z n : Bool) (s : State) : SameUpToZN (step s) (step (s.withZN z n)) := by
  rw [step, step, fetch_withZN]
  obtain ⟨d, u⟩ := fetch s
  cases d with
  | instr i => exact exec_withZN i z n u
  | unknownOpcode op => exact ⟨_, _, rfl, rfl, rfl⟩

/-- Settles O32: the step's writes by the split of the opcode byte, its reads by running fetch and handler side by side
from two states that differ in `Z` and `N` alone. -/
theorem zAndNAreWrittenByLdaOnlyAndReadByNone : Obligations.ZAndNAreWrittenByLdaOnlyAndReadByNone := by
  refine ⟨rfl, rfl, fun s => ?_⟩
  obtain ⟨t, hs⟩ := step_total s
  refine ⟨t, hs, fun hlda => ?_, fun h1 h2 h3 => ?_, fun z n => ?_⟩
  · obtain ⟨hz, hn⟩ := step_lda_writes_ZN hs hlda
    exact ⟨hz ▸ zeroOf_eq_true_iff t.a, hn⟩
  · exact step_keeps_ZN_of_not_lda hs (by rintro (h | h | h) <;> contradiction)
  · obtain ⟨u, t', hu, ht', hsame⟩ := step_withZN z n s
    cases hs.symm.trans hu
    exact ⟨t', ht', hsame⟩

end Sys2Proof.Machine
end

section
/-! The fetch (R70): the opcode byte alone decides how many bytes are taken, and the decoder is given those bytes. -/

namespace Sys2Proof

/-- The decoder on the opcode byte of a table entry. -/
@[simp] theorem decode_byte (o : Opcode) (b1 b2 : Byte) : decode o.byte b1 b2 = .instr (o.withOperands b1 b2) := by
  simp [decode, o.ofByte_byte]

/-- The decoder on an unknown opcode, whatever follows it. -/
theorem decode_of_unknown {op : Byte} (h : Opcode.ofByte op = none) (b1 b2 : Byte) :
    decode op b1 b2 = .unknownOpcode op := by
  simp [decode, h]

/-- The opcode byte of a table entry stands for the entry's format. -/
@[simp] theorem formatOf_byte (o : Opcode) : formatOf o.byte = o.format := by
  simp [formatOf, o.ofByte_byte]

/-- An unknown opcode has no operand bytes (R73, R78). -/
theorem formatOf_of_unknown {op : Byte} (h : Opcode.ofByte op = none) : formatOf op = .op := by
  simp [formatOf, h]

/-- An entry of format OP_B makes no use of byte 2. -/
theorem Opcode.withOperands_of_opB {o : Opcode} (hf : o.format = .opB) (b1 b2 : Byte) :
    o.withOperands b1 b2 = o.withOperands b1 0 := by
  cases o with
  | ldaImm => rfl
  | ldaZp => rfl
  | ldaZpX => rfl
  | jsrAbs => cases hf

end Sys2Proof

namespace Sys2Proof.Machine

/-- Every LDA has one operand byte (R71). -/
theorem formatOf_of_lda {op : Byte} (h : IsLdaOpcode op) : formatOf op = .opB := by
  obtain rfl | rfl | rfl := h
  · exact formatOf_byte .ldaImm
  · exact formatOf_byte .ldaZp
  · exact formatOf_byte .ldaZpX

/-- No LDA is a JSR. -/
theorem IsLdaOpcode.ne_jsr {op : Byte} (h : IsLdaOpcode op) : op ≠ 0x20 := by
  obtain rfl | rfl | rfl := h <;> decide

/-- The length that R70 gives each opcode byte. -/
theorem formatOf_length (op : Byte) :
    (formatOf op).length = if op = 0x20 then 3 else if op = 0xA9 ∨ op = 0xA5 ∨ op = 0xB5 then 2 else 1 := by
  obtain hlda | rfl | hunknown := opcode_cases op
  · rw [formatOf_of_lda hlda, if_neg hlda.ne_jsr]
    exact (if_pos hlda).symm
  · rfl
  · obtain ⟨himm, hzp, hzpx, hjsr⟩ := Opcode.ofByte_eq_none.mp hunknown
    rw [formatOf_of_unknown hunknown, if_neg hjsr, if_neg (by rintro (h | h | h) <;> contradiction), Format.length]

/-- What every fetch answers: the bytes at `PC`, `PC + 1`, `PC + 2` decoded, as many of them passed and paid for as the
opcode's format has (R70). -/
theorem fetch_eq (s : State) :
    fetch s =
      (decode (memRead s s.pc) (memRead s (s.pc + 1)) (memRead s (s.pc + 2)),
        { s with
          pc := s.pc + BitVec.ofNat 16 (formatOf (memRead s s.pc)).length
          cyc := s.cyc - (formatOf (memRead s s.pc)).length }) := by
  cases ho : Opcode.ofByte (memRead s s.pc) with
  | none =>
    rw [fetch_of_unknown ho, decode_of_unknown ho, formatOf_of_unknown ho]
    rfl
  | some o =>
    have hop := Opcode.ofByte_eq_some.mp ho
    cases hf : o.format with
    | op => cases o <;> cases hf
    | opB =>
      rw [fetch_eq_of_opB hop hf, hop, decode_byte, formatOf_byte, hf, Opcode.withOperands_of_opB hf _ (memRead s _)]
      rfl
    | opW =>
      rw [fetch_eq_of_opW hop hf, hop, decode_byte, formatOf_byte, hf]
      rfl

/-- Where control is not transferred, `PC` has advanced by the length of what was fetched (R70). -/
theorem step_pc_of_not_jsr {s t : State} (hs : step s = .next t) (h : memRead s s.pc ≠ 0x20) :
    t.pc = s.pc + BitVec.ofNat 16 (formatOf (memRead s s.pc)).length := by
  obtain hlda | hjsr | hunknown := opcode_cases (memRead s s.pc)
  · obtain ⟨v, c, hv⟩ := step_of_lda hlda
    cases hs.symm.trans hv
    rw [formatOf_of_lda hlda]
    rfl
  · exact absurd hjsr h
  · cases hs.symm.trans (step_of_unknown hunknown)
    rw [formatOf_of_unknown hunknown]
    rfl

/-- Settles O22: the length is the one of the opcode's format, which `fetch_eq` and `step_pc_of_not_jsr` speak of. -/
theorem opcodeDecidesTheLength : Obligations.OpcodeDecidesTheLength := by
  intro s
  obtain ⟨t, hs⟩ := step_total s
  exact ⟨(formatOf (memRead s s.pc)).length, formatOf_length _, fetch_eq s, t, hs, step_pc_of_not_jsr hs⟩

end Sys2Proof.Machine
end

section
/-! The operand forms (R79 to R82): what the address-mode resolver makes of the operand bytes. -/

namespace Sys2Proof.Machine

/-- A zero-page address is the operand byte, so below 256 (R80). -/
theorem zeroPage_toNat (nn : Byte) : (zeroPage nn).toNat = nn.toNat := zext16_toNat nn

/-- An indexed zero-page address wraps within the zero page (R81). -/
theorem zeroPageX_toNat (nn : Byte) (s : State) : (zeroPageX nn s).1.toNat = (nn.toNat + s.x.toNat) % 256 :=
  calc (zeroPageX nn s).1.toNat
    _ = (nn + s.x).toNat := zext16_toNat (nn + s.x)
    _ = (nn.toNat + s.x.toNat) % 256 := BitVec.toNat_add nn s.x

/-- Settles O18: one row of `decode_byte` for each table entry, and the address of each form. -/
theorem operandFormsAreAssembledAsTheSpecSays : Obligations.OperandFormsAreAssembledAsTheSpecSays := by
  intro b1 b2 s
  have himm : decode 0xA9 b1 b2 = .instr (.ldaImm b1) := decode_byte .ldaImm b1 b2
  have hzp : decode 0xA5 b1 b2 = .instr (.ldaZp b1) := decode_byte .ldaZp b1 b2
  have hzpx : decode 0xB5 b1 b2 = .instr (.ldaZpX b1) := decode_byte .ldaZpX b1 b2
  have habs : decode 0x20 b1 b2 = .instr (.jsrAbs (wordOf b2 b1)) := decode_byte .jsrAbs b1 b2
  exact ⟨himm, rfl, hzp, zeroPage_toNat b1, hzpx, zeroPageX_toNat b1 s, rfl, wordOf b2 b1, habs, wordOf_toNat b2 b1⟩

end Sys2Proof.Machine
end

section
/-! The six primitives (R90 to R95) and the empty run (R101): arithmetic on words and bytes wraps, and nothing but the
named result and `cyc` changes. -/

namespace Sys2Proof

/-- The spec's `(w + k) mod 65536` is the addition of words (R8, R96). -/
theorem ofNat_add_mod (w : Word) (k : Nat) : BitVec.ofNat 16 ((w.toNat + k) % 65536) = w + BitVec.ofNat 16 k := by
  apply BitVec.eq_of_toNat_eq
  simp

/-- The subtraction of words is the spec's subtraction of integers mod 65536 (R95). -/
theorem toNat_sub_eq_emod (x y : Word) : ((x - y).toNat : Int) = ((x.toNat : Int) - y.toNat) % 65536 := by
  rw [BitVec.toNat_sub]
  have := y.isLt
  omega

end Sys2Proof

namespace Sys2Proof.Machine

/-- The byte read after a `WriteWord`: the high byte at the second address, the low byte at the first, the old byte
elsewhere (R93). -/
theorem memRead_writeWord (addr v b : Word) (s : State) :
    memRead (writeWord addr v s) b =
      if addr + 1 = b then highByte v else if addr = b then lowByte v else memRead s b := by
  rw [writeWord, memRead_charge, memRead_memWrite, memRead_memWrite]

/-- Settles O15: `memRead_writeWord` at the first address, at the second, which is another one (R45), and at any other. -/
theorem writeWordStoresLittleEndian : Obligations.WriteWordStoresLittleEndian := by
  intro addr v s
  refine ⟨?low, ?high, fun b hfirst hsecond => ?frame, writeWord_eq addr v s⟩
  case low => rw [memRead_writeWord, if_neg (succ_ne addr), if_pos rfl, lowByte_toNat]
  case high =>
    have hsucc : BitVec.ofNat 16 ((addr.toNat + 1) % 65536) = addr + 1 := ofNat_add_mod addr 1
    rw [hsucc, memRead_writeWord, if_pos rfl, highByte_toNat]
  case frame => rw [memRead_writeWord, if_neg hsecond.symm, if_neg hfirst.symm]

/-- Settles O12: the fetch moves `PC` by `ofNat_add_mod`. -/
theorem fetchByteReadsAtPcAndAdvances : Obligations.FetchByteReadsAtPcAndAdvances := by
  intro s
  rw [ofNat_add_mod]
  rfl

/-- Settles O13: the value by `wordOf_toNat`, the addresses by `ofNat_add_mod`. -/
theorem fetchWordReadsLittleEndian : Obligations.FetchWordReadsLittleEndian := by
  intro s
  rw [ofNat_add_mod, ofNat_add_mod]
  exact ⟨wordOf_toNat _ _, rfl⟩

/-- Settles O14: `ReadByte` is a memory read and a charge of one unit. -/
theorem readByteLeavesThePc : Obligations.ReadByteLeavesThePc := fun _ _ => rfl

/-- Settles O16: the sum is that of bytes, the state that of a charge of one unit. -/
theorem addByteWrapsAndSetsNoFlag : Obligations.AddByteWrapsAndSetsNoFlag :=
  fun x y _ => ⟨BitVec.toNat_add x y, rfl⟩

/-- Settles O17: the difference by `toNat_sub_eq_emod`, the state that of a charge of one unit. -/
theorem subWordWrapsAndSetsNoFlag : Obligations.SubWordWrapsAndSetsNoFlag :=
  fun x y _ => ⟨toNat_sub_eq_emod x y, rfl⟩

/-- Settles O43: with budget 0 the loop is not entered. -/
theorem executeZeroDoesNothing : Obligations.ExecuteZeroDoesNothing := fun _ => ⟨rfl, rfl⟩

end Sys2Proof.Machine
end

section
/-! The load family (R110 to R113): `Z` and `N` as facts about the accumulator's value, the zero-page addresses as
numbers, and each LDA's next state, as a handler and as a whole step. -/

namespace Sys2Proof

/-- The zero-extension of a byte is the word of the same value (R80). -/
theorem zext16_eq_ofNat (b : Byte) : zext16 b = BitVec.ofNat 16 b.toNat :=
  (BitVec.ofNat_toNat 16 b).symm

/-- The zero-extension of a sum of bytes wraps at 256 (R81). -/
theorem zext16_add_eq_ofNat (b c : Byte) : zext16 (b + c) = BitVec.ofNat 16 ((b.toNat + c.toNat) % 256) := by
  rw [zext16_eq_ofNat, BitVec.toNat_add]

end Sys2Proof

namespace Sys2Proof.Machine

/-- `N` of a byte, which is its bit 7, is set exactly from 0x80 up (R113). -/
theorem negativeOf_eq_decide (v : Byte) : negativeOf v = decide (128 ≤ v.toNat) :=
  BitVec.msb_eq_decide v

/-- No byte is both zero and negative (R113). -/
theorem not_zeroOf_and_negativeOf (v : Byte) : ¬(zeroOf v = true ∧ negativeOf v = true) := by
  rintro ⟨hzero, hneg⟩
  obtain rfl := (zeroOf_eq_true_iff v).mp hzero
  exact absurd hneg (by decide)

/-- `SetFlagsZN` run again after a load changes nothing. -/
theorem setFlagsZN_loadA (v : Byte) (s : State) : setFlagsZN (loadA v s) = loadA v s := rfl

/-- Everything a load changes, its flags in terms of the loaded byte's value (R113). -/
theorem loadA_eq_decide (v : Byte) (s : State) :
    loadA v s = { s with a := v, flagZ := decide (v = 0), flagN := decide (128 ≤ v.toNat) } := by
  rw [loadA_eq, negativeOf_eq_decide, zeroOf]

/-- The handler of `LDA #$nn` (R110). -/
theorem exec_ldaImm (nn : Byte) (s : State) : exec (.ldaImm nn) s = .next (loadA nn s) := rfl

/-- The handler of `LDA $nn` (R111): one unit for the read. -/
theorem exec_ldaZp (nn : Byte) (s : State) :
    exec (.ldaZp nn) s = .next (loadA (memRead s (zext16 nn)) { s with cyc := s.cyc - 1 }) := execLdaZp_eq nn s

/-- The handler of `LDA $nn,X` (R112): one unit for the sum, one for the read. -/
theorem exec_ldaZpX (nn : Byte) (s : State) :
    exec (.ldaZpX nn) s = .next (loadA (memRead s (zext16 (nn + s.x))) { s with cyc := s.cyc - 2 }) := by
  rw [exec, execLdaZpX_eq, Int.sub_sub]
  rfl

/-- The handler of every LDA ends in the shared load body, run on a state in which only `cyc` has moved. -/
theorem exec_of_lda {nn : Byte} {i : Instr} (h : i = .ldaImm nn ∨ i = .ldaZp nn ∨ i = .ldaZpX nn) (s : State) :
    ∃ (v : Byte) (c : Int), exec i s = .next (loadA v { s with cyc := c }) := by
  obtain rfl | rfl | rfl := h
  · exact ⟨nn, s.cyc, exec_ldaImm nn s⟩
  · exact ⟨_, _, exec_ldaZp nn s⟩
  · exact ⟨_, _, exec_ldaZpX nn s⟩

/-- Settles O35: the flags by the facts about one byte, the loads by the body they share. -/
theorem flagsFollowTheAccumulatorAfterEveryLda : Obligations.FlagsFollowTheAccumulatorAfterEveryLda := by
  refine ⟨fun s => ⟨rfl, zeroOf_eq_true_iff s.a, ?negative, not_zeroOf_and_negativeOf s.a⟩, fun s nn i hi => ?loads⟩
  case negative => rw [setFlagsZN_flagN, negativeOf_eq_decide, decide_eq_true_iff]
  case loads =>
    obtain ⟨v, c, hexec⟩ := exec_of_lda hi s
    exact ⟨_, hexec, setFlagsZN_loadA v _, rfl, rfl, rfl, rfl, rfl⟩

/-- Settles O36: handler and step are the load of the operand byte itself. -/
theorem ldaImmediateLoadsItsLiteral : Obligations.LdaImmediateLoadsItsLiteral := by
  refine ⟨fun nn s => ?handler, fun nn s hop hnn => ?step⟩
  case handler => rw [exec_ldaImm, loadA_eq_decide]
  case step => rw [step_of_ldaImm hop, hnn, loadA_eq_decide]

/-- Settles O37: handler and step load from the operand byte zero-extended, whose value `zext16_eq_ofNat` gives. -/
theorem ldaZeroPageLoadsTheAddressedByte : Obligations.LdaZeroPageLoadsTheAddressedByte := by
  refine ⟨fun nn v s hv => ?handler, fun nn v s hop hnn hv => ?step⟩
  case handler => rw [exec_ldaZp, zext16_eq_ofNat, hv, loadA_eq_decide]
  case step => rw [step_of_ldaZp hop, hnn, zeroPage, zext16_eq_ofNat, hv, loadA_eq_decide]

/-- Settles O38: handler and step load from the sum of bytes zero-extended, which `zext16_add_eq_ofNat` wraps at 256. -/
theorem ldaZeroPageXWrapsWithinTheZeroPage : Obligations.LdaZeroPageXWrapsWithinTheZeroPage := by
  refine ⟨fun nn v s hv => ?handler, fun nn v s hop hnn hv => ?step⟩
  case handler => rw [exec_ldaZpX, zext16_add_eq_ofNat, hv, loadA_eq_decide]
  case step => rw [step_of_ldaZpX hop, hnn, zext16_add_eq_ofNat, hv, loadA_eq_decide]

end Sys2Proof.Machine
end

section
/-! The canonical form of memory (log entry 5) as the cells that reads see, and the host's moves on one element. -/

namespace Sys2Proof.Machine

/-- A listed cell is what its address reads as. -/
theorem Memory.Wf.read_of_mem {m : Memory} (h : m.Wf) {c : Host.Cell} (hc : c ∈ m) : m.read c.1 = c.2 := by
  induction m with
  | nil => cases hc
  | cons d m ih =>
    obtain ⟨hrising, hcells⟩ := h
    obtain ⟨hlt, htail⟩ := List.pairwise_cons.mp hrising
    obtain rfl | hc := List.mem_cons.mp hc
    · exact if_pos rfl
    · rw [Memory.read, if_neg (hlt c hc).ne]
      exact ih ⟨htail, fun e he => hcells e (List.mem_cons_of_mem d he)⟩ hc

/-- An address that does not read as 0x00 is listed. -/
theorem Memory.mem_of_read_ne {m : Memory} {a : Nat} (h : m.read a ≠ Memory.unlisted) : (a, m.read a) ∈ m := by
  induction m with
  | nil => exact absurd rfl h
  | cons c m ih =>
    rw [Memory.read] at h ⊢
    split at h
    case isTrue heq =>
      obtain rfl := heq
      simp
    case isFalse hne =>
      rw [if_neg hne]
      exact List.mem_cons_of_mem c (ih h)

/-- A canonical memory lists exactly the cells that reads of the 65536 addresses show not to be 0x00. -/
theorem Memory.Wf.mem_iff {m : Memory} (h : m.Wf) (c : Host.Cell) :
    c ∈ m ↔ c.1 < 65536 ∧ c.2 ≠ Memory.unlisted ∧ m.read c.1 = c.2 := by
  refine ⟨fun hc => ?_, fun ⟨_, hbyte, hread⟩ => ?_⟩
  · obtain ⟨haddr, hbyte⟩ := h.2 c hc
    exact ⟨haddr, hbyte, h.read_of_mem hc⟩
  · have hlisted : (c.1, m.read c.1) ∈ m := Memory.mem_of_read_ne (hread ▸ hbyte)
    rwa [hread] at hlisted

/-- Settles O11: both lists hold the cells of `Memory.Wf.mem_iff`, in the same strict order. -/
theorem canonicalMemoriesThatReadAlikeAreEqual : Obligations.CanonicalMemoriesThatReadAlikeAreEqual := by
  intro m m' hm hm' halike
  have hread (a : Nat) (ha : a < 65536) : m.read a = m'.read a := by
    have := halike (BitVec.ofNat 16 a)
    rwa [BitVec.toNat_ofNat, Nat.mod_eq_of_lt ha] at this
  have : Std.Irrefl fun c d : Host.Cell => c.1 < d.1 := ⟨fun c => Nat.lt_irrefl c.1⟩
  have : Std.Antisymm fun c d : Host.Cell => c.1 < d.1 := ⟨fun _ _ hcd hdc => absurd hdc hcd.asymm⟩
  refine hm.1.eq_of_mem_iff hm'.1 fun c => ?_
  rw [hm.mem_iff, hm'.mem_iff]
  exact and_congr_right fun ha => by rw [hread c.1 ha]

/-- Storing 0x00 at each address of a list leaves the cells of the other addresses. -/
theorem Memory.mem_foldl_write_zero (addrs : List Nat) (m : Memory) (c : Host.Cell) :
    c ∈ addrs.foldl (fun m a => m.write a 0x00) m ↔ c ∈ m ∧ c.1 ∉ addrs := by
  induction addrs generalizing m with
  | nil => simp
  | cons a addrs ih =>
    have hwrite : m.write a 0x00 = m.without a := if_pos rfl
    rw [List.foldl_cons, ih, hwrite, Memory.without, List.mem_filter, List.mem_cons, decide_eq_true_iff]
    tauto

/-- Settles O2: no cell of a canonical memory has an address outside the loop's. -/
theorem storingZeroEverywhereGivesResetMemory : Obligations.StoringZeroEverywhereGivesResetMemory := by
  intro m hm
  refine List.eq_nil_iff_forall_not_mem.mpr fun c hc => ?_
  obtain ⟨hlisted, hout⟩ := (Memory.mem_foldl_write_zero _ m c).mp hc
  exact hout (List.mem_range.mpr (hm.2 c hlisted).1)

/-- Settles O9: `memRead_memWrite` with its two addresses compared the other way round. -/
theorem storeThenLoadReturnsTheByte : Obligations.StoreThenLoadReturnsTheByte :=
  fun s addr b v => (memRead_memWrite s addr b v).trans (if_congr eq_comm rfl rfl)

/-- Settles O10: the fetch reads at `PC`, which the store leaves where it was. -/
theorem fetchSeesTheLastStore : Obligations.FetchSeesTheLastStore := by
  intro s v
  rw [fetchByte, memWrite_pc, memRead_memWrite, if_pos rfl]

/-- Settles O1: `Reset` reads no state, and the memory it leaves lists no cell. -/
theorem resetLeavesTheSpecsValues : Obligations.ResetLeavesTheSpecsValues := by
  refine ⟨fun _ => rfl, rfl, rfl, rfl, rfl, rfl, fun f => ?_, rfl, rfl, fun _ => rfl⟩
  cases f <;> rfl

/-- Settles O7: the empty list is canonical. -/
theorem resetMeetsTheInvariant : Obligations.ResetMeetsTheInvariant := Memory.wf_zeroed

/-- Settles O3: one case for each transaction. -/
theorem nothingButResetBeforeReset : Obligations.NothingButResetBeforeReset := by
  intro t ht
  cases t with
  | reset => exact absurd rfl ht
  | hostWrite w => rfl
  | execute budget => rfl
  | observe => rfl

/-- Settles O4: a register is set by its update, a byte read back by `memRead_memWrite`, a flag by `getFlag_setFlag`. -/
theorem hostWriteSetsOneElement : Obligations.HostWriteSetsOneElement := by
  intro s w
  refine ⟨rfl, ?_⟩
  cases w with
  | mem addr v => exact ⟨rfl, fun b => storeThenLoadReturnsTheByte s addr b v⟩
  | pc v => rfl
  | sp v => rfl
  | a v => rfl
  | x v => rfl
  | y v => rfl
  | flag f b => exact ⟨fun g => getFlag_setFlag g f b s, by cases f <;> rfl⟩

/-- Two states with the same observation differ in `cyc` at most. -/
theorem eq_withCyc_of_observe_eq {s s' : State} (h : observe s = observe s') : s' = { s with cyc := s'.cyc } := by
  cases s
  cases s'
  simp_all [observe]

/-- Settles O5: `Observe` answers its own state's observation, which holds every field but `cyc`. -/
theorem observeShowsAllButCyc : Obligations.ObserveShowsAllButCyc :=
  ⟨fun _ => rfl, fun _ _ => ⟨eq_withCyc_of_observe_eq, fun h => h ▸ rfl⟩⟩

end Sys2Proof.Machine
end

section
/-! The decoder against the encoder (30_encoding.md), on a stream of bytes and through memory. -/

namespace Sys2Proof

/-- An instruction made from a table entry belongs to that entry. -/
@[simp] theorem Opcode.opcode_withOperands (o : Opcode) (b1 b2 : Byte) : (o.withOperands b1 b2).opcode = o := by
  cases o <;> rfl

/-- The decoder answers an instruction exactly on the opcode byte of its entry, its operands being bytes 1 and 2. -/
theorem decode_eq_instr_iff {b0 b1 b2 : Byte} {i : Instr} :
    decode b0 b1 b2 = .instr i ↔ b0 = i.opcode.byte ∧ i.opcode.withOperands b1 b2 = i := by
  refine ⟨fun h => ?_, fun ⟨hop, hi⟩ => by rw [hop, decode_byte, hi]⟩
  cases ho : Opcode.ofByte b0 with
  | none =>
    rw [decode_of_unknown ho] at h
    cases h
  | some o =>
    obtain rfl := Opcode.ofByte_eq_some.mp ho
    rw [decode_byte] at h
    cases h
    rw [Opcode.opcode_withOperands]
    exact ⟨rfl, rfl⟩

/-- The decoder answers `unknownOpcode` exactly on the bytes outside the opcode map. -/
theorem decode_eq_unknownOpcode_iff {op b1 b2 : Byte} :
    decode op b1 b2 = .unknownOpcode op ↔ Opcode.ofByte op = none := by
  refine ⟨fun h => ?_, fun h => decode_of_unknown h b1 b2⟩
  cases ho : Opcode.ofByte op with
  | none => rfl
  | some o =>
    obtain rfl := Opcode.ofByte_eq_some.mp ho
    rw [decode_byte] at h
    cases h

/-- The operand bytes of a JSR's encoding give the JSR back. -/
theorem withOperands_jsrAbs (target : Word) :
    Opcode.jsrAbs.withOperands (lowByte target) (highByte target) = .jsrAbs target := by
  rw [Opcode.withOperands, wordOf_bytes]

/-- The encoding of an entry of format OP_B (R71). -/
theorem encode_of_opB {o : Opcode} (hf : o.format = .opB) (b1 b2 : Byte) :
    encode (o.withOperands b1 b2) = [o.byte, b1] := by
  cases o with
  | ldaImm => rfl
  | ldaZp => rfl
  | ldaZpX => rfl
  | jsrAbs => cases hf

/-- The encoding of an entry of format OP_W (R72). -/
theorem encode_of_opW {o : Opcode} (hf : o.format = .opW) (b1 b2 : Byte) :
    encode (o.withOperands b1 b2) = [o.byte, b1, b2] := by
  cases o with
  | ldaImm => cases hf
  | ldaZp => cases hf
  | ldaZpX => cases hf
  | jsrAbs => rw [Opcode.withOperands, encode, lowByte_wordOf, highByte_wordOf]

/-- The stream decoder reads back what the encoder wrote, and leaves the rest. -/
theorem decodeBytes_encode (i : Instr) (rest : List Byte) : decodeBytes (encode i ++ rest) = .item (.instr i) rest := by
  cases i with
  | ldaImm nn => rfl
  | ldaZp nn => rfl
  | ldaZpX nn => rfl
  | jsrAbs target =>
    calc decodeBytes (encode (.jsrAbs target) ++ rest)
      _ = .item (.instr (Opcode.jsrAbs.withOperands (lowByte target) (highByte target))) rest := rfl
      _ = .item (.instr (.jsrAbs target)) rest := by rw [withOperands_jsrAbs]

/-- What the stream decoder reads as an instruction is that instruction's encoding. -/
theorem eq_encode_of_decodeBytes {bytes rest : List Byte} {i : Instr}
    (h : decodeBytes bytes = .item (.instr i) rest) : bytes = encode i ++ rest := by
  cases bytes with
  | nil => cases h
  | cons b0 more =>
    cases ho : Opcode.ofByte b0 with
    | none =>
      simp [decodeBytes, formatOf_of_unknown ho, decode_of_unknown ho] at h
    | some o =>
      obtain rfl := Opcode.ofByte_eq_some.mp ho
      cases hf : o.format with
      | op => cases o <;> cases hf
      | opB =>
        match more with
        | [] => simp [decodeBytes, hf] at h
        | b1 :: more =>
          simp only [decodeBytes, formatOf_byte, hf, decode_byte] at h
          cases h
          rw [encode_of_opB hf]
          rfl
      | opW =>
        match more with
        | [] | [_] => simp [decodeBytes, hf] at h
        | b1 :: b2 :: more =>
          simp only [decodeBytes, formatOf_byte, hf, decode_byte] at h
          cases h
          rw [encode_of_opW hf]
          rfl

/-- Settles O21: the two directions are `eq_encode_of_decodeBytes` and `decodeBytes_encode`. -/
theorem decoderReadsExactlyTheEncodings : Obligations.DecoderReadsExactlyTheEncodings :=
  fun _ rest i _ => ⟨eq_encode_of_decodeBytes, fun h => h ▸ decodeBytes_encode i rest⟩

/-- Settles O19: the five ranges are the bytes that differ from the four opcodes. -/
theorem allOtherOpcodesAreUnknown : Obligations.AllOtherOpcodesAreUnknown := by
  intro op b1 b2
  rw [decode_eq_unknownOpcode_iff, Opcode.ofByte_eq_none]
  bv_omega

/-- Settles O20: four words by the entry of their first byte, the fifth byte being outside the opcode map. -/
theorem wordsOfTheTableDecode : Obligations.WordsOfTheTableDecode :=
  ⟨decode_byte .ldaImm _ _, decode_byte .ldaZp _ _, decode_byte .ldaZpX _ _, decode_byte .jsrAbs _ _,
    decode_of_unknown (by decide) _ _⟩

end Sys2Proof

namespace Sys2Proof.Machine

/-- Settles O23: `fetch_eq` gives the state after the fetches, the byte at `PC` naming the instruction's entry. -/
theorem stepRunsTheDecodedInstruction : Obligations.StepRunsTheDecodedInstruction := by
  intro s i h
  obtain ⟨hop, -⟩ := decode_eq_instr_iff.mp h
  rw [step, fetch_eq, h, hop, formatOf_byte]

@[simp] theorem storeBytes_pc (addr : Word) (bs : List Byte) (s : State) : (storeBytes addr bs s).pc = s.pc := by
  induction bs generalizing addr s with
  | nil => rfl
  | cons v bs ih => exact ih (addr + 1) (memWrite addr v s)

@[simp] theorem storeBytes_cyc (addr : Word) (bs : List Byte) (s : State) : (storeBytes addr bs s).cyc = s.cyc := by
  induction bs generalizing addr s with
  | nil => rfl
  | cons v bs ih => exact ih (addr + 1) (memWrite addr v s)

/-- Storing fewer bytes than there are addresses, from the next address on, does not come back to this one. -/
theorem memRead_storeBytes_succ {bs : List Byte} {k : Nat} (hk : 0 < k) (hlen : k + bs.length ≤ 65536) (addr : Word)
    (s : State) : memRead (storeBytes (addr + BitVec.ofNat 16 k) bs s) addr = memRead s addr := by
  induction bs generalizing k s with
  | nil => rfl
  | cons v bs ih =>
    rw [List.length_cons] at hlen
    have hne : addr + BitVec.ofNat 16 k ≠ addr := by
      intro h
      have := congrArg BitVec.toNat h
      have := addr.isLt
      simp at *
      omega
    have hnext : addr + BitVec.ofNat 16 k + 1 = addr + BitVec.ofNat 16 (k + 1) := by
      rw [BitVec.ofNat_add, BitVec.add_assoc]
      rfl
    rw [storeBytes, hnext, ih (Nat.succ_pos k) (by omega), memRead_memWrite, if_neg hne]

/-- The first of the stored bytes is read back at its address. -/
theorem memRead_storeBytes_first {bs : List Byte} (hlen : bs.length < 65536) (addr : Word) (v : Byte) (s : State) :
    memRead (storeBytes addr (v :: bs) s) addr = v :=
  calc memRead (storeBytes (addr + 1) bs (memWrite addr v s)) addr
    _ = memRead (memWrite addr v s) addr := memRead_storeBytes_succ Nat.one_pos (by omega) addr _
    _ = v := by rw [memRead_memWrite, if_pos rfl]

/-- The decoder on a stored opcode byte and operand byte, whatever it is given as byte 2. -/
theorem decode_storeBytes {bs : List Byte} (hlen : bs.length < 65535) (o : Opcode) (b1 b2 : Byte) (addr : Word)
    (s : State) :
    decode (memRead (storeBytes addr (o.byte :: b1 :: bs) s) addr)
      (memRead (storeBytes addr (o.byte :: b1 :: bs) s) (addr + 1)) b2 = .instr (o.withOperands b1 b2) := by
  have hfirst := memRead_storeBytes_first (bs := b1 :: bs) (by rw [List.length_cons]; omega) addr o.byte s
  have hsecond : memRead (storeBytes addr (o.byte :: b1 :: bs) s) (addr + 1) = b1 := by
    rw [storeBytes, memRead_storeBytes_first (by omega)]
  rw [hfirst, hsecond, decode_byte]

/-- The decoder finds an instruction where its encoding was stored. -/
theorem decode_storeBytes_encode (i : Instr) (addr : Word) (s : State) :
    decode (memRead (storeBytes addr (encode i) s) addr) (memRead (storeBytes addr (encode i) s) (addr + 1))
      (memRead (storeBytes addr (encode i) s) (addr + 2)) = .instr i := by
  cases i with
  | ldaImm nn => exact decode_storeBytes (by decide) .ldaImm nn _ addr s
  | ldaZp nn => exact decode_storeBytes (by decide) .ldaZp nn _ addr s
  | ldaZpX nn => exact decode_storeBytes (by decide) .ldaZpX nn _ addr s
  | jsrAbs target =>
    have hthird : memRead (storeBytes addr (encode (.jsrAbs target)) s) (addr + 1 + 1) = highByte target := by
      rw [encode, storeBytes, storeBytes, memRead_storeBytes_first (by decide)]
    rw [BitVec.add_assoc] at hthird
    rw [encode, decode_storeBytes (by rw [List.length_singleton]; omega), ← withOperands_jsrAbs target]
    exact congrArg (fun b => Decoded.instr (Opcode.jsrAbs.withOperands (lowByte target) b)) hthird

/-- Settles O24: the stored bytes decode to the instruction, so O23's statement speaks of the step. -/
theorem anEncodedInstructionStoredAtPcRuns : Obligations.AnEncodedInstructionStoredAtPcRuns := by
  intro i s _
  have hrun := stepRunsTheDecodedInstruction (storeBytes s.pc (encode i) s) i
  rw [storeBytes_pc, storeBytes_cyc] at hrun
  exact hrun (decode_storeBytes_encode i s.pc s)

end Sys2Proof.Machine
end

section
/-! What one step does, said once: the byte at `PC` decides one of three effects, and a step is that effect. The rules
about every step (R100, R104, R130, R131, R144, R164) are facts about effects. -/

namespace Sys2Proof.Machine

/-- What an iteration does to the state it starts from. -/
inductive Effect where
  /-- An LDA: the byte it loads and what the whole step costs. -/
  | load (v : Byte) (units : Nat)
  /-- A JSR to that target. -/
  | call (target : Word)
  /-- The report of that unknown opcode. -/
  | report (op : Byte)

/-- The effect carried out, fetches included. -/
def Effect.apply (e : Effect) (s : State) : State :=
  match e with
  | .load v units => loadA v { s with pc := s.pc + 2, cyc := s.cyc - units }
  | .call target => jsrCosting Config.cJsrSub target { s with pc := s.pc + 3, cyc := s.cyc - 3 }
  | .report op => reportUnknownOpcode op s.pc { s with pc := s.pc + 1, cyc := s.cyc - 1 }

/-- The effect that the bytes at `PC` ask for (R98). -/
def effect (s : State) : Effect :=
  match Opcode.ofByte (memRead s s.pc) with
  | some .ldaImm => .load (memRead s (s.pc + 1)) 2
  | some .ldaZp => .load (memRead s (zeroPage (memRead s (s.pc + 1)))) 3
  | some .ldaZpX => .load (memRead s (zext16 (memRead s (s.pc + 1) + s.x))) 4
  | some .jsrAbs => .call (wordOf (memRead s (s.pc + 2)) (memRead s (s.pc + 1)))
  | none => .report (memRead s s.pc)

/-- Every step is its effect (R98). -/
theorem step_eq (s : State) : step s = .next ((effect s).apply s) := by
  cases ho : Opcode.ofByte (memRead s s.pc) with
  | none => rw [step_of_unknown ho, effect, ho, Effect.apply]
  | some o =>
    have hop := Opcode.ofByte_eq_some.mp ho
    cases o with
    | ldaImm => rw [step_of_ldaImm hop, effect, ho]; rfl
    | ldaZp => rw [step_of_ldaZp hop, effect, ho]; rfl
    | ldaZpX => rw [step_of_ldaZpX hop, effect, ho]; rfl
    | jsrAbs => rw [step_of_jsrAbs hop, effect, ho, Effect.apply]

/-- The next state of a step is its effect's. -/
theorem eq_apply_of_step {s t : State} (hs : step s = .next t) : t = (effect s).apply s := by
  cases hs.symm.trans (step_eq s)
  rfl

/-- What a step reads: `PC`, `X` and memory alone decide the effect (R13, R18, R27, R99). -/
theorem effect_congr {s s' : State} (hpc : s'.pc = s.pc) (hx : s'.x = s.x) (hmem : s'.mem = s.mem) :
    effect s' = effect s := by
  simp only [effect, memRead, hpc, hx, hmem]

/-- The pseudocode of `LDA #$nn` (R110) after the opcode fetch. -/
theorem handlerLdaImmediate_fetched (s : State) :
    handlerLdaImmediate (fetchByte s).2 = loadA (memRead s (s.pc + 1)) { s with pc := s.pc + 2, cyc := s.cyc - 2 } := by
  simp [handlerLdaImmediate, fetchByte, loadA, charge, setPc, memRead, Int.sub_sub, BitVec.add_assoc]

/-- The pseudocode of `LDA $nn` (R111) after the opcode fetch. -/
theorem handlerLdaZeroPage_fetched (s : State) :
    handlerLdaZeroPage (fetchByte s).2 =
      loadA (memRead s (zeroPage (memRead s (s.pc + 1)))) { s with pc := s.pc + 2, cyc := s.cyc - 3 } := by
  simp [handlerLdaZeroPage, fetchByte, readByte, zeroPage, loadA, charge, setPc, memRead, Int.sub_sub, BitVec.add_assoc]

/-- The pseudocode of `LDA $nn,X` (R112) after the opcode fetch. -/
theorem handlerLdaZeroPageX_fetched (s : State) :
    handlerLdaZeroPageX (fetchByte s).2 =
      loadA (memRead s (zext16 (memRead s (s.pc + 1) + s.x))) { s with pc := s.pc + 2, cyc := s.cyc - 4 } := by
  simp [handlerLdaZeroPageX, fetchByte, addByte, readByte, loadA, charge, setPc, memRead, Int.sub_sub,
    BitVec.add_assoc]

/-- The pseudocode of `JSR $hhll` (R120) after the opcode fetch: its body from the word fetch on is `jsrCosting`. -/
theorem handlerJsr_fetched (s : State) :
    handlerJsr (fetchByte s).2 =
      jsrCosting Config.cJsrSub (wordOf (memRead s (s.pc + 2)) (memRead s (s.pc + 1)))
        { s with pc := s.pc + 3, cyc := s.cyc - 3 } := by
  have hword : fetchWord (fetchByte s).2 =
      (wordOf (memRead s (s.pc + 2)) (memRead s (s.pc + 1)), { s with pc := s.pc + 3, cyc := s.cyc - 3 }) := by
    simp [fetchByte, fetchWord, charge, setPc, memRead, Int.sub_sub, BitVec.add_assoc]
  rw [handlerJsr, hword]
  rfl

/-- The pseudocode's choice of handler by the opcode byte (R98). -/
theorem stepPseudocode_eq (s : State) :
    stepPseudocode s =
      if memRead s s.pc = 0xA9 then handlerLdaImmediate (fetchByte s).2
      else if memRead s s.pc = 0xA5 then handlerLdaZeroPage (fetchByte s).2
      else if memRead s s.pc = 0xB5 then handlerLdaZeroPageX (fetchByte s).2
      else if memRead s s.pc = 0x20 then handlerJsr (fetchByte s).2
      else reportUnknownOpcode (memRead s s.pc) s.pc (fetchByte s).2 := rfl

/-- Settles O25: opcode by opcode, the handler that fetches its own operand ends where the step does. -/
theorem stepIsThePseudocode : Obligations.StepIsThePseudocode := by
  intro s
  rw [stepPseudocode_eq]
  obtain (himm | hzp | hzpx) | hjsr | hunknown := opcode_cases (memRead s s.pc)
  · rw [if_pos himm, step_of_ldaImm himm, handlerLdaImmediate_fetched]
  · rw [if_neg (by rw [hzp]; decide), if_pos hzp, step_of_ldaZp hzp, handlerLdaZeroPage_fetched]
  · rw [if_neg (by rw [hzpx]; decide), if_neg (by rw [hzpx]; decide), if_pos hzpx, step_of_ldaZpX hzpx,
      handlerLdaZeroPageX_fetched]
  · rw [if_neg (by rw [hjsr]; decide), if_neg (by rw [hjsr]; decide), if_neg (by rw [hjsr]; decide), if_pos hjsr,
      step_of_jsrAbs hjsr, handlerJsr_fetched]
  · obtain ⟨himm, hzp, hzpx, hjsr⟩ := Opcode.ofByte_eq_none.mp hunknown
    rw [if_neg himm, if_neg hzp, if_neg hzpx, if_neg hjsr, step_of_unknown hunknown]
    rfl

/-- Settles O26: `step_total`, whatever byte is at `PC`. -/
theorem everyStepAnswersANextState : Obligations.EveryStepAnswersANextState := step_total

/-- Settles O28: a byte that is none of the four is outside the opcode map, and the step reports it. -/
theorem unknownOpcodeIsRecordedAndSkipped : Obligations.UnknownOpcodeIsRecordedAndSkipped :=
  fun _ himm hzp hzpx hjsr => step_of_unknown (Opcode.ofByte_eq_none.mpr ⟨himm, hzp, hzpx, hjsr⟩)

/-- What an effect costs, fetches included (R104). -/
def Effect.units : Effect → Nat
  | .load _ units => units
  | .call _ => 6 + Config.cJsrSub
  | .report _ => 1

theorem Effect.apply_cyc (e : Effect) (s : State) : (e.apply s).cyc = s.cyc - e.units := by
  cases e with
  | load v units => rfl
  | call target =>
    simp only [Effect.apply, jsrCosting_eq, Effect.units]
    omega
  | report op => rfl

/-- The effect costs Table COST's entry of what the fetch decodes. -/
theorem effect_units (s : State) : (effect s).units = cost (fetch s).1 := by
  rw [fetch_eq]
  cases ho : Opcode.ofByte (memRead s s.pc) with
  | none => rw [effect, ho, decode_of_unknown ho]; rfl
  | some o =>
    rw [effect, ho, Opcode.ofByte_eq_some.mp ho, decode_byte]
    cases o <;> rfl

/-- Both values of `C_JSR_SUB` keep Table COST between 1 and `6 + C_JSR_SUB` (R100). -/
theorem cost_bounds (d : Decoded) : 1 ≤ cost d ∧ cost d ≤ 6 + Config.cJsrSub := by
  cases d with
  | instr i => cases i <;> simp only [cost] <;> omega
  | unknownOpcode op => simp only [cost]; omega

/-- A step lowers `cyc` by Table COST's entry of what the fetch decodes. -/
theorem step_cyc {s t : State} (hs : step s = .next t) : t.cyc = s.cyc - cost (fetch s).1 := by
  rw [eq_apply_of_step hs, Effect.apply_cyc, effect_units]

/-- A step lowers `cyc` by 1 to `6 + C_JSR_SUB` units (R100). -/
theorem step_cyc_bounds {s t : State} (hs : step s = .next t) :
    s.cyc - (6 + Config.cJsrSub) ≤ t.cyc ∧ t.cyc ≤ s.cyc - 1 := by
  obtain ⟨hlow, hhigh⟩ := cost_bounds (fetch s).1
  rw [step_cyc hs]
  omega

/-- Settles O27: `step_cyc` at the bytes that the fetch decodes. -/
theorem stepCostsWhatTheTableSays : Obligations.StepCostsWhatTheTableSays := by
  intro s
  obtain ⟨t, hs⟩ := step_total s
  have hcyc := step_cyc hs
  rw [fetch_eq] at hcyc
  exact ⟨t, hs, hcyc, step_cyc_bounds hs⟩

/-- The records an effect adds when it begins at that address. -/
def Effect.records (pc : Word) : Effect → List DiagRecord
  | .report op => [{ value := op, address := pc }]
  | _ => []

theorem Effect.apply_diag (e : Effect) (s : State) : (e.apply s).diag = s.diag ++ e.records s.pc := by
  cases e with
  | load v units => exact (List.append_nil s.diag).symm
  | call target => exact (List.append_nil s.diag).symm
  | report op => rfl

/-- A step adds a record exactly where the byte at `PC` is outside the opcode map: that byte and its own address. -/
theorem effect_records (s : State) :
    (effect s).records s.pc =
      if Opcode.ofByte (memRead s s.pc) = none then [{ value := memRead s s.pc, address := s.pc }] else [] := by
  cases ho : Opcode.ofByte (memRead s s.pc) with
  | none => rw [effect, ho]; rfl
  | some o =>
    rw [effect, ho]
    cases o <;> rfl

/-- A step is clean exactly where the byte at `PC` is in the opcode map. -/
theorem ranClean_iff_of_step {s t : State} (hs : step s = .next t) :
    ranClean s t ↔ Opcode.ofByte (memRead s s.pc) ≠ none := by
  rw [ranClean, eq_apply_of_step hs, Effect.apply_diag, List.append_right_eq_self, effect_records]
  simp

/-- Settles O29: `ranClean_iff_of_step`, the opcode map knowing exactly the four bytes. -/
theorem stepIsCleanExactlyOnDefinedOpcodes : Obligations.StepIsCleanExactlyOnDefinedOpcodes := by
  intro s
  obtain ⟨t, hs⟩ := step_total s
  refine ⟨t, hs, ?_⟩
  rw [ranClean_iff_of_step hs, ne_eq, Opcode.ofByte_eq_none]
  tauto

/-- `X`, `Y`, `C`, `I`, `D`, `B` and `V`, which no instruction writes (R32, R164), are the same in both states. -/
def KeepsInert (s t : State) : Prop :=
  t.x = s.x ∧ t.y = s.y ∧
  t.flagC = s.flagC ∧ t.flagI = s.flagI ∧ t.flagD = s.flagD ∧ t.flagB = s.flagB ∧ t.flagV = s.flagV

/-- Each of the three effects carries the seven along. -/
theorem Effect.apply_keepsInert (e : Effect) (s : State) : KeepsInert s (e.apply s) := by
  cases e with
  | load v units => exact ⟨rfl, rfl, rfl, rfl, rfl, rfl, rfl⟩
  | call target => exact ⟨rfl, rfl, rfl, rfl, rfl, rfl, rfl⟩
  | report op => exact ⟨rfl, rfl, rfl, rfl, rfl, rfl, rfl⟩

/-- Settles O30: a step is its effect. -/
theorem stepNeverWritesXYOrTheInertFlags : Obligations.StepNeverWritesXYOrTheInertFlags :=
  fun s => ⟨_, step_eq s, (effect s).apply_keepsInert s⟩

/-- Settles O33: a load sets the two flags from one byte, which is not both zero and negative; the other effects keep
them. -/
theorem stepKeepsZAndNExclusive : Obligations.StepKeepsZAndNExclusive := by
  intro s h
  refine ⟨_, step_eq s, ?_⟩
  cases effect s with
  | load v units => exact not_zeroOf_and_negativeOf v
  | call target => exact h
  | report op => exact h

/-- Settles O34: of the three effects only the call stores, and `writeWord_wf` says how. -/
theorem everyStepKeepsTheInvariant : Obligations.EveryStepKeepsTheInvariant := by
  intro s t hinv hs
  rw [eq_apply_of_step hs]
  cases effect s with
  | load v units => exact hinv
  | call target => exact writeWord_wf (s := s) hinv s.sp (s.pc + 3 - 1)
  | report op => exact hinv

end Sys2Proof.Machine
end

section
/-! The frames of the handlers: what the loads keep (R114), what JSR pushes, where it goes and what it keeps (R120,
R121), and which step moves `SP` or stores (R16, R57). -/

namespace Sys2Proof

/-- A word is put together from its two bytes. -/
theorem highByte_mul_add_lowByte (w : Word) : (highByte w).toNat * 256 + (lowByte w).toNat = w.toNat := by
  rw [← wordOf_toNat, wordOf_bytes]

/-- The word before another one, as the spec counts it mod 65536 (R96). -/
theorem pred_toNat (w : Word) : (w - 1).toNat = (w.toNat + 65535) % 65536 := by
  bv_omega

end Sys2Proof

namespace Sys2Proof.Machine

/-- Settles O39: the three loads share a body, run on a state in which only `cyc` has moved. -/
theorem loadsChangeOnlyAAndZN : Obligations.LoadsChangeOnlyAAndZN := by
  intro nn i s t hi hexec
  obtain ⟨v, c, hload⟩ := exec_of_lda hi s
  cases hexec.symm.trans hload
  exact ⟨rfl, rfl, rfl, rfl, rfl, rfl, rfl, rfl, rfl, rfl, fun _ => rfl⟩

/-- The handler of JSR (R120). -/
theorem exec_jsrAbs (target : Word) (s : State) :
    exec (.jsrAbs target) s = .next (jsrCosting Config.cJsrSub target s) := rfl

/-- The byte read after JSR's body: `PC - 1`, low byte first, at the old `SP`, the old byte elsewhere (R120). -/
theorem memRead_jsrCosting (cost : Nat) (target : Word) (s : State) (b : Word) :
    memRead (jsrCosting cost target s) b =
      if s.sp + 1 = b then highByte (s.pc - 1) else if s.sp = b then lowByte (s.pc - 1) else memRead s b :=
  memRead_writeWord s.sp (s.pc - 1) b s

/-- The word that JSR's body leaves at the old `SP`. -/
theorem pushed_word (cost : Nat) (target : Word) (s : State) :
    (memRead (jsrCosting cost target s) (s.sp + 1)).toNat * 256 + (memRead (jsrCosting cost target s) s.sp).toNat =
      (s.pc - 1).toNat := by
  rw [memRead_jsrCosting, memRead_jsrCosting, if_pos rfl, if_neg (succ_ne s.sp), if_pos rfl, highByte_mul_add_lowByte]

/-- JSR's body stores to the two pushed bytes only. -/
theorem memRead_jsrCosting_other (cost : Nat) (target : Word) {s : State} {b : Word} (hlow : b ≠ s.sp)
    (hhigh : b ≠ s.sp + 1) : memRead (jsrCosting cost target s) b = memRead s b := by
  rw [memRead_jsrCosting, if_neg hhigh.symm, if_neg hlow.symm]

/-- What JSR's body charges: `C_JSR_SUB`, two units for the push and one more (R104, R120). -/
theorem jsrCosting_cyc (cost : Nat) (target : Word) (s : State) :
    (jsrCosting cost target s).cyc = s.cyc - (3 + cost) := by
  simp only [jsrCosting_eq]
  omega

/-- Settles O40: the pushed word is the one before `PC`. -/
theorem jsrPushesItsLastByteAddressAndJumps : Obligations.JsrPushesItsLastByteAddressAndJumps :=
  fun target s =>
    ⟨_, exec_jsrAbs target s, rfl, rfl, jsrCosting_cyc _ target s, (pushed_word _ target s).trans (pred_toNat s.pc)⟩

/-- Settles O41: `jsrCosting_eq` names all the fields that change, `memRead_jsrCosting_other` the bytes that do not. -/
theorem jsrChangesOnlyPcSpAndThePushedBytes : Obligations.JsrChangesOnlyPcSpAndThePushedBytes := by
  intro target s t hexec
  have hkept {b : Word} := memRead_jsrCosting_other (s := s) (b := b) Config.cJsrSub target
  cases hexec.symm.trans (exec_jsrAbs target s)
  rw [jsrCosting_eq] at hkept ⊢
  refine ⟨rfl, rfl, rfl, fun f => ?_, rfl, fun addr haddr b hlow hhigh => ?_⟩
  · cases f <;> rfl
  · obtain rfl : addr = s.sp := haddr
    exact hkept hlow hhigh

/-- Settles O42: JSR's body after the fetch of three bytes, with the target as memory held it before the push. -/
theorem jsrStepCallsTheTargetItFetched : Obligations.JsrStepCallsTheTargetItFetched := by
  intro s hop
  refine ⟨_, step_of_jsrAbs hop, wordOf_toNat _ _, BitVec.toNat_add s.sp 2, ?cyc, ?word,
    fun b hlow hhigh => ?frame, ?fields⟩
  case cyc =>
    simp only [jsrCosting_cyc]
    omega
  case word =>
    have hlast : s.pc + 3 - 1 = s.pc + 2 := by bv_omega
    exact (pushed_word _ _ _).trans ((congrArg BitVec.toNat hlast).trans (BitVec.toNat_add s.pc 2))
  case frame => exact memRead_jsrCosting_other _ _ hlow hhigh
  case fields => rfl

/-- A step that is no JSR keeps `SP` and memory. -/
theorem step_keeps_sp_mem_of_not_jsr {s t : State} (hs : step s = .next t) (h : memRead s s.pc ≠ 0x20) :
    t.sp = s.sp ∧ t.mem = s.mem := by
  obtain hlda | hjsr | hunknown := opcode_cases (memRead s s.pc)
  · obtain ⟨v, c, hload⟩ := step_of_lda hlda
    cases hs.symm.trans hload
    exact ⟨rfl, rfl⟩
  · exact absurd hjsr h
  · cases hs.symm.trans (step_of_unknown hunknown)
    exact ⟨rfl, rfl⟩

/-- Settles O31: the two cases are `step_keeps_sp_mem_of_not_jsr` and JSR's body. -/
theorem onlyJsrMovesSpOrStores : Obligations.OnlyJsrMovesSpOrStores := by
  intro s
  obtain ⟨t, hs⟩ := step_total s
  refine ⟨t, hs, fun hne => ?_, fun hjsr => ?_⟩
  · obtain ⟨hsp, hmem⟩ := step_keeps_sp_mem_of_not_jsr hs hne
    exact ⟨hsp, fun b => by rw [memRead, memRead, hmem]⟩
  · cases hs.symm.trans (step_of_jsrAbs hjsr)
    exact ⟨rfl, fun b hlow hhigh => memRead_jsrCosting_other _ _ hlow hhigh⟩

end Sys2Proof.Machine
end

section
/-! Runs (40_primitives_and_sequencer.md section 3). The loop of `Execute` is a run of effects; what every effect
keeps, a run keeps, and what two states agree on through every effect, their runs agree on. -/

namespace Sys2Proof.Machine

-- ---- the loop ----

/-- The loop ends where the budget is spent. -/
theorem runLoop_of_nonpos {s : State} (h : s.cyc ≤ 0) (n : Nat) : runLoop n s = .next s := by
  cases n with
  | zero => rfl
  | succ n => rw [runLoop, if_neg (not_lt.mpr h)]

/-- The loop goes on from the effect of the bytes at `PC` where budget is left. -/
theorem runLoop_of_pos {s : State} (h : 0 < s.cyc) (n : Nat) :
    runLoop (n + 1) s = runLoop n ((effect s).apply s) := by
  rw [runLoop, if_pos h, step_eq]

theorem loopCount_of_nonpos {s : State} (h : s.cyc ≤ 0) (n : Nat) : loopCount n s = 0 := by
  cases n with
  | zero => rfl
  | succ n => rw [loopCount, if_neg (not_lt.mpr h)]

theorem loopCount_of_pos {s : State} (h : 0 < s.cyc) (n : Nat) :
    loopCount (n + 1) s = loopCount n ((effect s).apply s) + 1 := by
  rw [loopCount, if_pos h, step_eq]

/-- An effect lowers `cyc` by 1 to `6 + C_JSR_SUB` units (R100). -/
theorem effect_cyc_bounds (s : State) :
    s.cyc - (6 + Config.cJsrSub) ≤ ((effect s).apply s).cyc ∧ ((effect s).apply s).cyc ≤ s.cyc - 1 :=
  step_cyc_bounds (step_eq s)

/-- Two runs side by side: a relation that gives both states the same `cyc`, and that every effect keeps, holds at their
ends. -/
theorem runLoop_related {R : State → State → Prop} (hcyc : ∀ {s s'}, R s s' → s'.cyc = s.cyc)
    (hstep : ∀ {s s'}, R s s' → 0 < s.cyc → R ((effect s).apply s) ((effect s').apply s'))
    (n : Nat) {s s' : State} (h : R s s') : ∃ t t' : State, runLoop n s = .next t ∧ runLoop n s' = .next t' ∧ R t t' := by
  induction n generalizing s s' with
  | zero => exact ⟨s, s', rfl, rfl, h⟩
  | succ n ih =>
    obtain hpos | hend := lt_or_ge 0 s.cyc
    · rw [runLoop_of_pos hpos, runLoop_of_pos (hcyc h ▸ hpos)]
      exact ih (hstep h hpos)
    · exact ⟨s, s', runLoop_of_nonpos hend _, runLoop_of_nonpos (hcyc h ▸ hend) _, h⟩

/-- One run: what every effect keeps while budget is left holds at the end. -/
theorem runLoop_keeps {P : State → Prop} (hstep : ∀ {s}, P s → 0 < s.cyc → P ((effect s).apply s)) (n : Nat)
    {s : State} (h : P s) : ∃ t : State, runLoop n s = .next t ∧ P t := by
  obtain ⟨t, t', ht, -, -, hP⟩ := runLoop_related (R := fun s s' => s' = s ∧ P s) (fun h => h.1 ▸ rfl)
    (fun ⟨heq, hP⟩ hpos => ⟨heq ▸ rfl, hstep hP hpos⟩) n ⟨rfl, h⟩
  exact ⟨t, ht, hP⟩

-- ---- how long a run is ----

/-- The bound on the recursion never cuts a run short (R100, log entry 14). -/
theorem runLoop_cyc_nonpos {n : Nat} {s t : State} (hn : s.cyc ≤ n) (ht : runLoop n s = .next t) : t.cyc ≤ 0 := by
  induction n generalizing s with
  | zero =>
    cases ht
    exact hn
  | succ n ih =>
    obtain hpos | hend := lt_or_ge 0 s.cyc
    · rw [runLoop_of_pos hpos] at ht
      obtain ⟨-, hless⟩ := effect_cyc_bounds s
      exact ih (by omega) ht
    · cases (runLoop_of_nonpos hend _).symm.trans ht
      exact hend

/-- Settles O44: only an effect that starts with budget left lowers `cyc`, by `6 + C_JSR_SUB` at most. -/
theorem executeReturnsWithinTheOvershoot : Obligations.ExecuteReturnsWithinTheOvershoot := by
  intro budget s
  obtain ⟨t, ht, hlow⟩ := runLoop_keeps (P := fun s => -(5 + (Config.cJsrSub : Int)) ≤ s.cyc)
    (fun {s} _ hpos => by have := (effect_cyc_bounds s).1; omega) budget
    (s := { s with cyc := budget }) (by dsimp only; omega)
  exact ⟨t, ht, hlow, runLoop_cyc_nonpos le_rfl ht⟩

/-- The core's run starts with a step (log entry 1). -/
theorem core_run_succ (k : Nat) {s t : State} (hs : step s = .next t) :
    Host.Core.run Sys2Proof.core (k + 1) s = Host.Core.run Sys2Proof.core k t := by
  have hcore : Sys2Proof.core.step s = .next t := hs
  simp only [Host.Core.run, hcore]

/-- The loop is the core's run of as many steps as it makes iterations (R97). -/
theorem runLoop_eq_run (n : Nat) (s : State) : runLoop n s = Host.Core.run Sys2Proof.core (loopCount n s) s := by
  induction n generalizing s with
  | zero => rfl
  | succ n ih =>
    obtain hpos | hend := lt_or_ge 0 s.cyc
    · rw [runLoop_of_pos hpos, loopCount_of_pos hpos, ih, core_run_succ _ (step_eq s)]
    · rw [runLoop_of_nonpos hend, loopCount_of_nonpos hend]
      rfl

theorem loopCount_le (n : Nat) (s : State) : loopCount n s ≤ n := by
  induction n generalizing s with
  | zero => exact le_rfl
  | succ n ih =>
    obtain hpos | hend := lt_or_ge 0 s.cyc
    · rw [loopCount_of_pos hpos]
      exact Nat.succ_le_succ (ih _)
    · rw [loopCount_of_nonpos hend]
      exact Nat.zero_le _

/-- Each iteration spends `6 + C_JSR_SUB` units at most (R100). -/
theorem cyc_le_loopCount_mul {n : Nat} {s : State} (hn : s.cyc ≤ n) :
    s.cyc ≤ (loopCount n s * (6 + Config.cJsrSub) : Nat) := by
  induction n generalizing s with
  | zero => simpa [loopCount] using hn
  | succ n ih =>
    obtain hpos | hend := lt_or_ge 0 s.cyc
    · obtain ⟨hmost, hless⟩ := effect_cyc_bounds s
      have hrest := ih (s := (effect s).apply s) (by omega)
      rw [loopCount_of_pos hpos, Nat.succ_mul]
      omega
    · rwa [loopCount_of_nonpos hend, Nat.zero_mul]

/-- Settles O45: the loop from the state whose `cyc` is the budget. -/
theorem executeIsABoundedRunOfSteps : Obligations.ExecuteIsABoundedRunOfSteps :=
  fun budget s => ⟨runLoop_eq_run budget _, loopCount_le budget _,
    Int.ofNat_le.mp (cyc_le_loopCount_mul (s := { s with cyc := budget }) le_rfl)⟩

/-- Settles O46: one effect spends the budget, and the loop ends. -/
theorem smallBudgetRunsExactlyOneInstruction : Obligations.SmallBudgetRunsExactlyOneInstruction := by
  intro budget s hone hcost
  obtain ⟨n, rfl⟩ := Nat.exists_eq_add_of_le' hone
  have hpos : 0 < ({ s with cyc := (n + 1 : Nat) } : State).cyc := Int.natCast_pos.mpr hone
  have hfetch : (fetch { s with cyc := (n + 1 : Nat) }).1 = (fetch s).1 := by
    rw [fetch_eq, fetch_eq]
    rfl
  have hspent : ((effect { s with cyc := (n + 1 : Nat) }).apply { s with cyc := (n + 1 : Nat) }).cyc ≤ 0 := by
    rw [step_cyc (step_eq _), hfetch]
    dsimp only
    omega
  rw [execute, iterations, runLoop_of_pos hpos, loopCount_of_pos hpos, runLoop_of_nonpos hspent,
    loopCount_of_nonpos hspent, step_eq]
  exact ⟨rfl, rfl⟩

-- ---- budgets ----

/-- Settles O47: the observation holds all but `cyc`, which the budget overwrites. -/
theorem executeForgetsTheOldCounter : Obligations.ExecuteForgetsTheOldCounter := by
  intro budget s s' h
  rw [eq_withCyc_of_observe_eq h]
  rfl

/-- More bound than budget makes no difference. -/
theorem runLoop_of_bound_add {n : Nat} {s : State} (hn : s.cyc ≤ n) (k : Nat) : runLoop (k + n) s = runLoop n s := by
  induction n generalizing s with
  | zero => rw [runLoop_of_nonpos hn, runLoop_of_nonpos hn]
  | succ n ih =>
    obtain hpos | hend := lt_or_ge 0 s.cyc
    · obtain ⟨-, hless⟩ := effect_cyc_bounds s
      rw [← Nat.add_assoc, runLoop_of_pos hpos, runLoop_of_pos hpos, ih (by omega)]
    · rw [runLoop_of_nonpos hend, runLoop_of_nonpos hend]

/-- More budget changes nothing in an effect but the budget that is left. -/
theorem Effect.apply_addCyc (e : Effect) (s : State) (m : Int) :
    e.apply { s with cyc := s.cyc + m } = { e.apply s with cyc := (e.apply s).cyc + m } := by
  cases e with
  | load v units => simp only [Effect.apply, loadA_eq, add_sub_right_comm]
  | call target => simp only [Effect.apply, jsrCosting_eq, add_sub_right_comm]
  | report op => simp only [Effect.apply, reportUnknownOpcode, add_sub_right_comm]

/-- A run that spends its budget exactly goes on with whatever more it is given (R103). -/
theorem runLoop_addCyc {n : Nat} {s t : State} (ht : runLoop n s = .next t) (hspent : t.cyc = 0) (m : Nat) :
    runLoop (n + m) { s with cyc := s.cyc + m } = runLoop m { t with cyc := m } := by
  induction n generalizing s with
  | zero =>
    cases ht
    rw [hspent, Int.zero_add, Nat.zero_add]
  | succ n ih =>
    obtain hpos | hend := lt_or_ge 0 s.cyc
    · rw [runLoop_of_pos hpos] at ht
      have heffect : effect { s with cyc := s.cyc + m } = effect s := effect_congr rfl rfl rfl
      rw [Nat.add_right_comm, runLoop_of_pos (by dsimp only; omega), heffect,
        Effect.apply_addCyc, ih ht]
    · cases (runLoop_of_nonpos hend _).symm.trans ht
      rw [hspent, Int.zero_add, runLoop_of_bound_add le_rfl]

/-- Settles O48: `runLoop_addCyc` from the state whose `cyc` is the first budget. -/
theorem budgetsAddWhenNothingIsOvershot : Obligations.BudgetsAddWhenNothingIsOvershot := by
  intro first second s t ht hspent
  rw [execute, Int.natCast_add]
  exact runLoop_addCyc ht hspent second

-- ---- what a run keeps ----

theorem KeepsInert.trans {s t u : State} (hst : KeepsInert s t) (htu : KeepsInert t u) : KeepsInert s u := by
  obtain ⟨hx, hy, hc, hi, hd, hb, hv⟩ := htu
  rw [KeepsInert, hx, hy, hc, hi, hd, hb, hv]
  exact hst

/-- Settles O49: every effect keeps the seven. -/
theorem runsNeverWriteXYOrTheInertFlags : Obligations.RunsNeverWriteXYOrTheInertFlags :=
  fun budget s => runLoop_keeps (P := KeepsInert s) (fun {u} hu _ => hu.trans ((effect u).apply_keepsInert u)) budget
    ⟨rfl, rfl, rfl, rfl, rfl, rfl, rfl⟩

/-- From a launch with that log the log has grown by records of unknown opcodes only, each of them paid for out of the
budget. -/
def LoggedWithin (budget : Nat) (log : List DiagRecord) (t : State) : Prop :=
  ∃ new : List DiagRecord, t.diag = log ++ new ∧ new.length + max t.cyc 0 ≤ budget ∧
    ∀ r ∈ new, Opcode.ofByte r.value = none

/-- An effect adds one record at most, of an unknown opcode. -/
theorem effect_records_unknown (s : State) :
    ((effect s).records s.pc).length ≤ 1 ∧ ∀ r ∈ (effect s).records s.pc, Opcode.ofByte r.value = none := by
  rw [effect_records]
  split
  case isTrue hunknown => simpa using hunknown
  case isFalse => simp

/-- An effect that starts with budget left pays for the record it adds. -/
theorem LoggedWithin.apply {budget : Nat} {log : List DiagRecord} {s : State} (h : LoggedWithin budget log s)
    (hpos : 0 < s.cyc) : LoggedWithin budget log ((effect s).apply s) := by
  obtain ⟨new, hdiag, hpaid, hunknown⟩ := h
  obtain ⟨hone, hadded⟩ := effect_records_unknown s
  obtain ⟨-, hless⟩ := effect_cyc_bounds s
  refine ⟨new ++ (effect s).records s.pc, ?_, ?_, fun r hr => ?_⟩
  · rw [Effect.apply_diag, hdiag, List.append_assoc]
  · rw [List.length_append]
    omega
  · exact (List.mem_append.mp hr).elim (hunknown r) (hadded r)

/-- Settles O50: the records a run adds are each paid for. -/
theorem runsOnlyAppendUnknownOpcodesToDiag : Obligations.RunsOnlyAppendUnknownOpcodesToDiag := by
  intro budget s
  obtain ⟨t, ht, new, hdiag, hpaid, hunknown⟩ := runLoop_keeps (P := LoggedWithin budget s.diag) LoggedWithin.apply
    budget (s := { s with cyc := budget }) ⟨[], (List.append_nil s.diag).symm, by simp, by simp⟩
  exact ⟨t, new, ht, hdiag, by omega, fun r hr => Opcode.ofByte_eq_none.mp (hunknown r hr)⟩

-- ---- what a run does not read ----

/-- Another log at launch changes nothing in an effect but the log it adds to. -/
theorem Effect.apply_withDiag (e : Effect) (s : State) (log : List DiagRecord) :
    e.apply { s with diag := log } = { e.apply s with diag := log ++ e.records s.pc } := by
  cases e with
  | load v units => simp only [Effect.apply, loadA_eq, Effect.records, List.append_nil]
  | call target => simp only [Effect.apply, jsrCosting_eq, Effect.records, List.append_nil]
  | report op => rfl

/-- Two states that differ in the log alone, each having added the same records to the log it was launched with. -/
def SameUpToLog (log other : List DiagRecord) (s s' : State) : Prop :=
  ∃ new : List DiagRecord, s.diag = log ++ new ∧ s' = { s with diag := other ++ new }

/-- Every effect adds the same records to either log. -/
theorem SameUpToLog.apply {log other : List DiagRecord} {s s' : State} (h : SameUpToLog log other s s') :
    SameUpToLog log other ((effect s).apply s) ((effect s').apply s') := by
  obtain ⟨new, hdiag, rfl⟩ := h
  have heffect : effect { s with diag := other ++ new } = effect s := effect_congr rfl rfl rfl
  refine ⟨new ++ (effect s).records s.pc, ?_, ?_⟩
  · rw [Effect.apply_diag, hdiag, List.append_assoc]
  · rw [heffect, Effect.apply_withDiag, List.append_assoc]

/-- Settles O51: the two runs go side by side, no effect reading the log. -/
theorem diagNeverInfluencesARun : Obligations.DiagNeverInfluencesARun := by
  intro budget s other
  obtain ⟨t, t', ht, ht', new, hdiag, rfl⟩ := runLoop_related (R := SameUpToLog s.diag other)
    (fun ⟨_, _, heq⟩ => heq ▸ rfl) (fun h _ => h.apply) budget
    (s := { s with cyc := budget }) (s' := { s with cyc := budget, diag := other })
    ⟨[], (List.append_nil s.diag).symm, by rw [List.append_nil]⟩
  exact ⟨t, new, ht, hdiag, ht'⟩

/-- Two states that differ in `Y` and the flags alone, the second having these values of `Y`, `C`, `I`, `D`, `B` and
`V`. -/
def SameUpToFlagsAndY (y : Byte) (c i d b v : Bool) (s s' : State) : Prop :=
  s' =
    { s with
      y := y, flagC := c, flagZ := s'.flagZ, flagI := i, flagD := d, flagB := b, flagV := v, flagN := s'.flagN }

/-- No effect reads a flag or `Y`, and none writes one but `Z` and `N`. -/
theorem SameUpToFlagsAndY.apply {y : Byte} {c i d b v : Bool} {s s' : State}
    (h : SameUpToFlagsAndY y c i d b v s s') :
    SameUpToFlagsAndY y c i d b v ((effect s).apply s) ((effect s').apply s') := by
  rw [SameUpToFlagsAndY] at h
  have heffect : effect s' = effect s := by
    rw [h]
    exact effect_congr rfl rfl rfl
  rw [heffect, h]
  cases effect s with
  | load w units => rfl
  | call target => rfl
  | report op => rfl

/-- Settles O52: the two runs go side by side, no effect reading a flag or `Y`. -/
theorem flagsAndYNeverInfluenceARun : Obligations.FlagsAndYNeverInfluenceARun :=
  fun budget s y c z i d b v n => runLoop_related (R := SameUpToFlagsAndY y c i d b v)
    (fun h => by rw [h]) (fun h _ => h.apply) budget (s := { s with cyc := budget }) rfl

-- ---- runs at the host boundary ----

/-- Settles O6: the loop always answers a next state, and the transaction passes it on where the budget is accepted. -/
theorem executeTransactionAcceptsBudgetsUpToTheMaximum :
    Obligations.ExecuteTransactionAcceptsBudgetsUpToTheMaximum := by
  refine ⟨fun most budget => decide_eq_true_iff, fun _ => rfl, fun budget s => ?_⟩
  obtain ⟨t, ht, -⟩ := executeReturnsWithinTheOvershoot budget s
  refine ⟨t, ht, ?_⟩
  rw [transact, ht]

/-- A run keeps memory canonical. -/
theorem execute_keeps_inv {budget : Nat} {s t : State} (h : s.Inv) (ht : execute budget s = .next t) : t.Inv := by
  obtain ⟨u, hu, hinv⟩ := runLoop_keeps (P := State.Inv)
    (fun {s} hs _ => everyStepKeepsTheInvariant s _ hs (step_eq s)) budget (s := { s with cyc := budget }) h
  cases ht.symm.trans hu
  exact hinv

/-- Only a store of the host writes memory. -/
theorem hostWrite_keeps_inv {s : State} (h : s.Inv) (w : HostWrite) : (hostWrite w s).Inv := by
  cases w with
  | mem addr v => exact memWrite_wf h addr v
  | pc v => exact h
  | sp v => exact h
  | a v => exact h
  | x v => exact h
  | y v => exact h
  | flag f b =>
    rw [State.Inv, hostWrite, setFlag_mem]
    exact h

/-- Settles O8: one case for each transaction that answers a boundary. -/
theorem everyTransactionKeepsTheInvariant : Obligations.EveryTransactionKeepsTheInvariant := by
  intro t b b' seen hinv ht
  cases t with
  | reset =>
    cases ht
    exact Memory.wf_zeroed
  | hostWrite w =>
    cases b with
    | beforeReset => cases ht
    | ready s =>
      cases ht
      exact hostWrite_keeps_inv hinv w
  | execute budget =>
    cases b with
    | beforeReset => cases ht
    | ready s =>
      obtain ⟨-, -, htransact⟩ := executeTransactionAcceptsBudgetsUpToTheMaximum
      obtain ⟨u, hu, hanswer⟩ := htransact budget s
      rw [hanswer] at ht
      split at ht
      · cases ht
        exact execute_keeps_inv hinv hu
      · cases ht
  | observe =>
    cases b with
    | beforeReset => cases ht
    | ready s =>
      cases ht
      exact hinv

end Sys2Proof.Machine
end
